-- ==== Sys2Proof/Word.lean ====
section
/-! DEFINITION. The words of the Huffman codec core: fixed-width values of spec/00_scope.md and spec/10_state.md. -/

namespace Sys2Proof

/-- One byte of a stream (20_memory.md R61, R64). -/
abbrev Byte := BitVec 8

/-- A symbol, 0..256, held in 9 bits (10_state.md R21). -/
abbrev Symbol := BitVec 9

/-- An arena index, held in 10 bits (10_state.md R23, R27). -/
abbrev Index := BitVec 10

/-- `SENT`, the end-of-stream sentinel symbol (00_scope.md R6). -/
def sentinel : Symbol := 256#9

/-- `NODE_CAP`, the number of entries of the node arena (00_scope.md R6). -/
def nodeCap : Nat := 513

/-- `CODE_MAX`, the greatest `code_length` (00_scope.md R6). -/
def codeMax : Nat := 256

end Sys2Proof
end

