-- ==== Sys2Proof/Config.lean ====
section
/-! DEFINITION. The three open parameters of the block (00_scope.md R6) and the model's free values. -/

namespace Sys2Proof

/-- `BYTE_ORDER`: the order of the bytes of a payload word in the byte stream (20_memory.md R70). -/
inductive ByteOrder where
  | BE
  | LE
deriving DecidableEq, Repr

/-- The parameters a model takes as a configuration record (00_scope.md R6).
A record carries the proof that its values are legal: W is a multiple of 8 with W ≥ 8, and FW ≥ 1. -/
structure Config where
  W : Nat
  order : ByteOrder
  FW : Nat
  W_legal : 8 ≤ W ∧ W % 8 = 0
  FW_legal : 1 ≤ FW
deriving DecidableEq, Repr

/-- The defaults of 00_scope.md R6: W = 64, BE, FW = 64. -/
def Config.standard : Config := ⟨64, .BE, 64, by decide, by decide⟩

/-- `WB`, bytes per payload word (00_scope.md R6). -/
def Config.WB (c : Config) : Nat := c.W / 8

/-- `2^FW − 2`, the most bytes ENC_BUILD can tally (40_tree_builder.md R121). -/
def Config.maxCount (c : Config) : Nat := 2 ^ c.FW - 2

/-- FREE VALUE (log 2): the arena index an unspecified register holds; nothing constrains it.
Read for ROOT and CUR after SESSION_END (93_implementation_defined.md V6). -/
opaque Config.freeIndex : Nat → Index

/-- FREE VALUE (log 2, log 8): how many of an interrupted command's stream accesses had happened
(70_reset_and_hazards.md R272); nothing constrains it. -/
opaque Config.freeCount : Nat → Nat

end Sys2Proof
end

