-- ==== Sys2Proof/Syntax.lean ====
section
/-! DEFINITION. The abstract syntax: one constructor for each row of spec/opcode_table.json. -/

namespace Sys2Proof

/-- The six host commands (30_encoding.md R92), which take no operand in the word (R91), and the three
tree-header tokens (R94, R95, R96). -/
inductive Instr where
  | encBuild
  | encExport
  | encEncode
  | decBuild
  | decDecode
  | sessionEnd
  | tokN
  /-- The operand is the leaf's symbol, already assembled from the literal byte (R95). -/
  | tokC (symbol : Symbol)
  | tokZ
deriving DecidableEq, Repr

/-- Is the instruction a tree-header token (30_encoding.md R93), not a host command? -/
def Instr.isToken : Instr → Bool
  | .encBuild => false
  | .encExport => false
  | .encEncode => false
  | .decBuild => false
  | .decDecode => false
  | .sessionEnd => false
  | .tokN => true
  | .tokC _ => true
  | .tokZ => true

end Sys2Proof
end

