-- ==== Sys2Proof/WellFormed.lean ====
section
/-! DEFINITION. Which terms of the syntax the encoding can spell. -/

namespace Sys2Proof

/-- A literal leaf's symbol is `zext_9(lit)`, "a value 0..255" (30_encoding.md R95): no token `C` carries the sentinel
or one of the values 257 to 511, which never occur (10_state.md R21). -/
def literalOk (symbol : Symbol) : Bool := decide (symbol.toNat < 256)

/-- The well-formed instructions: the one operand of the table is in range. -/
def Instr.wellFormed : Instr → Bool
  | .encBuild => true
  | .encExport => true
  | .encEncode => true
  | .decBuild => true
  | .decDecode => true
  | .sessionEnd => true
  | .tokN => true
  | .tokC symbol => literalOk symbol
  | .tokZ => true

end Sys2Proof
end

