-- ==== Sys2Proof/Decode.lean ====
section
/-! DEFINITION. The decoder, total on any bytes, and the encoder (30_encoding.md). -/

namespace Sys2Proof

/-- Why a byte sequence is no instruction. -/
inductive DecodeError where
  /-- The byte is no assigned opcode (30_encoding.md R92, R101). -/
  | unassignedOpcode (op : Byte)
  /-- A marker is due and the stream has ended (42_tree_codec.md R154 (a)). -/
  | noMarker
  /-- The marker is none of `N`, `C`, `Z` (30_encoding.md R102; 42_tree_codec.md R154 (b)). -/
  | badMarker (marker : Byte)
  /-- The literal byte of a `C` is due and the stream has ended (42_tree_codec.md R154 (c)). -/
  | noLiteral
deriving DecidableEq, Repr

/-- The marker bytes of the header (00_scope.md R10; 93_implementation_defined.md K1). -/
def markerN : Byte := 0x4E#8

/-- The marker of a literal leaf (00_scope.md R10). -/
def markerC : Byte := 0x43#8

/-- The marker of the sentinel leaf (00_scope.md R10). -/
def markerZ : Byte := 0x5A#8

/-- `zext_9(lit)`, the symbol of a literal leaf (30_encoding.md R95). -/
def literalSymbol (lit : Byte) : Symbol := lit.setWidth 9

/-- `symbol[7:0]`, the byte a literal symbol is written as (42_tree_codec.md R151; 43_bit_packer_unpacker.md R178). -/
def symbolByte (symbol : Symbol) : Byte := symbol.setWidth 8

/-- The opcode map (30_encoding.md R92). -/
def opcodeMap : List (Byte × Instr) :=
  [(0x01#8, .encBuild), (0x02#8, .encExport), (0x03#8, .encEncode),
   (0x11#8, .decBuild), (0x12#8, .decDecode), (0x20#8, .sessionEnd)]

/-- The command an 8-bit value written to CMD stands for: all eight bits are the opcode (30_encoding.md R91, R92). -/
def decodeCommand (op : Byte) : Except DecodeError Instr :=
  match opcodeMap.lookup op with
  | some i => .ok i
  | none => .error (.unassignedOpcode op)

/-- The header token at the front of a byte sequence, and the bytes after it (30_encoding.md R93 to R96).
The byte after a `C` marker is never looked at as a marker (R95). -/
def decodeToken : List Byte → Except DecodeError (Instr × List Byte)
  | [] => .error .noMarker
  | m :: rest =>
    if m = markerN then .ok (.tokN, rest)
    else if m = markerZ then .ok (.tokZ, rest)
    else if m = markerC then
      match rest with
      | [] => .error .noLiteral
      | lit :: rest' => .ok (.tokC (literalSymbol lit), rest')
    else .error (.badMarker m)

/-- Any row of the opcode table at the front of a byte sequence: a command byte, or a header token.
The two kinds share no first byte, so one reading never hides the other. -/
def decode : List Byte → Except DecodeError (Instr × List Byte)
  | [] => .error .noMarker
  | b :: rest =>
    match decodeCommand b with
    | .ok i => .ok (i, rest)
    | .error _ => decodeToken (b :: rest)

/-- The bytes of an instruction (30_encoding.md R92, R94 to R96). -/
def encode : Instr → List Byte
  | .encBuild => [0x01#8]
  | .encExport => [0x02#8]
  | .encEncode => [0x03#8]
  | .decBuild => [0x11#8]
  | .decDecode => [0x12#8]
  | .sessionEnd => [0x20#8]
  | .tokN => [markerN]
  | .tokC symbol => [markerC, symbolByte symbol]
  | .tokZ => [markerZ]

/-- The bytes, in stream order, of a row of spec/opcode_table.json whose `nbits` bits are `w`: the table takes
the two bytes of a `C` "in stream order with byte 0 as the high byte" (30_encoding.md, head; log 11).
One zero byte follows, so that every bit above `nbits` reads 0. -/
def tableBytes (nbits w : Nat) : List Byte :=
  (List.range (nbits / 8)).map (fun k => BitVec.ofNat 8 (w >>> (8 * (nbits / 8 - 1 - k)))) ++ [0#8]

/-- The instruction the decoder reads from a table row's bits. -/
def decodeTableWord (nbits w : Nat) : Option Instr :=
  match decode (tableBytes nbits w) with
  | .ok (i, _) => some i
  | .error _ => none

end Sys2Proof
end

