-- ==== Sys2Proof/Machine/State.lean ====
section
/-! DEFINITION. The state of the block as plain data (10_state.md R20, R48), its faults, and its reset. -/

namespace Sys2Proof.Machine

/-- STATUS.STATE (10_state.md R36); the codes 10 to 15 never occur and are not representable. -/
inductive Phase where
  | idle
  | countingFrequencies
  | treeBuilt
  | exporting
  | packing
  | parsingTree
  | ready
  | decoding
  | done
  | rejected
deriving DecidableEq, Repr

/-- STATUS.MODE (10_state.md R36, R37); the code 3 never occurs. -/
inductive Mode where
  | none
  | encoder
  | decoder
deriving DecidableEq, Repr

/-- The result codes (60_exceptions.md R241); 10 to 15 are never produced. -/
inductive Result where
  | ok
  | emptyInput
  | notCompressible
  | malformedTree
  | truncatedStream
  | illegalCommand
  | badState
  | counterOverflow
  | noCode
  | capacityExceeded
deriving DecidableEq, Repr

/-- The fields of STATUS (10_state.md R36); `Status.word` in Flags.lean is the 16-bit register. -/
structure Status where
  phase : Phase
  mode : Mode
  err : Result
  perrIllegal : Bool
  perrBadState : Bool
  last : Result
deriving DecidableEq, Repr

/-- `Leaf` or `Internal` (10_state.md R23). A child is `none` from the allocation of an Internal node by TC.IMPORT until
its sub-tree has been parsed (42_tree_codec.md R153; log 7); a built node has both children at once (40_tree_builder.md R126). -/
inductive NodeKind where
  | leaf (symbol : Symbol)
  | internal (left right : Option Index)
deriving DecidableEq, Repr

/-- One arena entry (10_state.md R23); `freq` is FW bits wide. -/
structure Node where
  kind : NodeKind
  freq : Nat
  codeLen : BitVec 9
  codeVal : BitVec 256
deriving DecidableEq, Repr

/-- Which child of a node (10_state.md R25: 0 for a step to the left, 1 for a step to the right). -/
inductive Side where
  | left
  | right
deriving DecidableEq, Repr

/-- One activation of `parse(len, val)` that has allocated the Internal node `node` and waits for the sub-tree on `side`
(42_tree_codec.md R153; 10_state.md R32). -/
structure Frame where
  node : Index
  len : Nat
  val : Nat
  side : Side
deriving DecidableEq, Repr

/-- The two streams (10_state.md R33; 20_memory.md R61, R64). -/
structure Memory where
  data : List Byte
  pos : Nat
  out : List Byte
deriving DecidableEq, Repr

/-- The form of the streams: "0 ≤ pos ≤ len" (20_memory.md R61). -/
def Memory.wf (m : Memory) : Bool := decide (m.pos ≤ m.data.length)

/-- What the host does between commands: a statement of the host script (30_encoding.md R104; 20_memory.md R67; 10_state.md
R34) or the reset input (70_reset_and_hazards.md R270, R272). -/
inductive HostAction where
  | attachIn (bytes : List Byte)
  | rewind
  | attachOut
  | takeOut
  | regRead (n : Nat)
  | regWrite (n : Nat) (v : Byte)
  /-- The host stops a fixed sequence unless the last result is OK: the next `n` statements are dropped (30_encoding.md R105). -/
  | stopUnlessOk (n : Nat)
  | rst
  /-- `rst` raised while the command of opcode `v` runs (70_reset_and_hazards.md R272). -/
  | rstDuring (v : Byte)
deriving DecidableEq, Repr

/-- What the host receives (10_state.md R49; 60_exceptions.md R240; 20_memory.md R67 TAKE_OUT). -/
inductive HostEvent where
  | rsp (code : Result)
  | rdata (n v : Nat)
  | taken (bytes : List Byte)
deriving DecidableEq, Repr

/-- The whole state (10_state.md R20). Quantities whose width is a parameter (FW or W bits) are naturals; `Inv` in
Safety.lean says that each fits its width, and 00_scope.md R14 that no result wraps. -/
structure State where
  /-- W, BYTE_ORDER, FW: parameters of the step, which no step changes (00_scope.md R6). -/
  cfg : Config
  /-- FREQ[0..255]; FREQ[256] is hardwired (10_state.md R22). -/
  freq : Vector Nat 256
  /-- NODE[0..NODE_N-1] (10_state.md R27). -/
  nodes : List Node
  root : Index
  /-- LEAF_OF[0..256], NONE as `none` (10_state.md R28). -/
  leafOf : Vector (Option Index) 257
  /-- The priority collection, a set of arena indices (10_state.md R29). -/
  q : List Index
  /-- The packer's accumulator (10_state.md R30). -/
  acc : Nat
  cnt : Nat
  /-- The unpacker's registers (10_state.md R31). -/
  word : Nat
  mask : Nat
  cur : Index
  /-- The parser's recursion stack, innermost first (10_state.md R32). -/
  pend : List Frame
  /-- DEC_BUILD's local `p0` (45_decoder_commands.md R211). -/
  hdrStart : Nat
  status : Status
  ctrl : BitVec 8
  inCount : Nat
  hdrBytes : BitVec 10
  payloadBits : Nat
  sentCount : BitVec 9
  mem : Memory
  /-- The host's coming actions, first one next (log 6). -/
  script : List HostAction
  /-- What the host has received, oldest first (log 6). -/
  seen : List HostEvent
  /-- The model's own: how many free values have been drawn (log 2). -/
  draws : Nat
deriving DecidableEq, Repr

/-- Why a run stops: only in states no run from reset reaches (log 7), so every constructor is SAFE. -/
inductive Fault where
  /-- Raised by every arena access to an index ≥ NODE_N: such entries "do not exist architecturally" (10_state.md R27;
  20_memory.md R76). Safe. -/
  | noSuchNode (i : Index)
  /-- Raised by every walk that follows a child no rule has written (42_tree_codec.md R153; log 7). Safe. -/
  | noChild (i : Index)
  /-- Raised by CA.ASSIGN and TC.EXPORT below depth CODE_MAX, the depth of the deepest tree the arena holds (00_scope.md
  R6; 10_state.md R32). Safe. -/
  | tooDeep (i : Index)
  /-- Raised by TB.MERGE on fewer than two elements and by TB.BUILD when `Q` does not end with one (40_tree_builder.md R126,
  R127). Safe. -/
  | queueEmpty
  /-- Raised by BU.STEP on a leaf: its precondition is that `NODE[CUR]` is Internal (43_bit_packer_unpacker.md R178). Safe. -/
  | walkOnLeaf (i : Index)
  /-- Raised by ENC_ENCODE when the sentinel has no leaf (40_tree_builder.md R124: it always has one in a built tree). Safe. -/
  | noSentinelLeaf
deriving DecidableEq, Repr

/-- Why a step has no meaning. -/
inductive Refusal where
  /-- Raised by `exec` for an instruction that has no meaning yet. Safe. -/
  | notModelled (mnemonic : String)
  /-- Raised by `step` when the host acts while STATE is a transient one: outside the model (46_session_commands.md R228;
  70_reset_and_hazards.md R282; 93_implementation_defined.md V9; log 9). Safe. -/
  | hostDuringCommand
deriving DecidableEq, Repr

/-- STATUS = 0x0000 (10_state.md R48). -/
def Status.reset : Status := ⟨.idle, .none, .ok, false, false, .ok⟩

/-- The state right after reset of a block with parameters `c` (10_state.md R48; 70_reset_and_hazards.md R270).
ROOT and CUR, which the spec leaves unspecified, are named 0 (log 1); no stream is attached (70_reset_and_hazards.md R274; log 5). -/
def State.resetWith (c : Config) : State where
  cfg := c
  freq := Vector.replicate 256 0
  nodes := []
  root := 0#10
  leafOf := Vector.replicate 257 none
  q := []
  acc := 0
  cnt := 0
  word := 0
  mask := 0
  cur := 0#10
  pend := []
  hdrStart := 0
  status := Status.reset
  ctrl := 0x01#8
  inCount := 0
  hdrBytes := 0#10
  payloadBits := 0
  sentCount := 0#9
  mem := ⟨[], 0, []⟩
  script := []
  seen := []
  draws := 0

/-- The state right after reset under the default parameters (00_scope.md R6). -/
def State.reset : State := State.resetWith Config.standard

end Sys2Proof.Machine
end

