-- ==== Sys2Proof/Machine/Flags.lean ====
section
/-! DEFINITION. The flags: the STATUS word, the states that admit each command, and the tests an operation makes
(10_state.md R36, R38, R45, R47). -/

namespace Sys2Proof.Machine

/-- The numeric codes of STATE (10_state.md R36). -/
def Phase.code : Phase → BitVec 4
  | .idle => 0#4
  | .countingFrequencies => 1#4
  | .treeBuilt => 2#4
  | .exporting => 3#4
  | .packing => 4#4
  | .parsingTree => 5#4
  | .ready => 6#4
  | .decoding => 7#4
  | .done => 8#4
  | .rejected => 9#4

/-- The numeric codes of MODE (10_state.md R36). -/
def Mode.code : Mode → BitVec 2
  | .none => 0#2
  | .encoder => 1#2
  | .decoder => 2#2

/-- The result codes (60_exceptions.md R241). -/
def Result.code : Result → BitVec 4
  | .ok => 0#4
  | .emptyInput => 1#4
  | .notCompressible => 2#4
  | .malformedTree => 3#4
  | .truncatedStream => 4#4
  | .illegalCommand => 5#4
  | .badState => 6#4
  | .counterOverflow => 7#4
  | .noCode => 8#4
  | .capacityExceeded => 9#4

/-- The session-fatal results, codes 1, 2, 3, 4, 7, 8, 9 (10_state.md R38; 60_exceptions.md R241). -/
def Result.fatal : Result → Bool
  | .ok => false
  | .emptyInput => true
  | .notCompressible => true
  | .malformedTree => true
  | .truncatedStream => true
  | .illegalCommand => false
  | .badState => false
  | .counterOverflow => true
  | .noCode => true
  | .capacityExceeded => true

/-- STATUS as the host reads it (10_state.md R36): LAST 15:12, PERR_BADSTATE 11, PERR_ILLEGAL 10, ERR 9:6, MODE 5:4, STATE 3:0. -/
def Status.word (t : Status) : BitVec 16 :=
  t.last.code ++ BitVec.ofBool t.perrBadState ++ BitVec.ofBool t.perrIllegal ++ t.err.code ++ t.mode.code ++ t.phase.code

/-- The resting states, "the only ones a host can ever read" (10_state.md R36). -/
def Phase.resting : Phase → Bool
  | .idle => true
  | .countingFrequencies => false
  | .treeBuilt => true
  | .exporting => true
  | .packing => false
  | .parsingTree => false
  | .ready => true
  | .decoding => false
  | .done => true
  | .rejected => true

/-- CTRL.GATE_EN, bit 0 (10_state.md R39). -/
def State.gateEn (s : State) : Bool := s.ctrl.getLsbD 0

/-- ENC_BITS of CA.SIZE: header bytes in bits, plus payload bits rounded up to whole words (41_code_assigner.md R144). -/
def State.encBits (s : State) : Nat :=
  8 * s.hdrBytes.toNat + s.cfg.W * ((s.payloadBits + s.cfg.W - 1) / s.cfg.W)

/-- ORIG_BITS of CA.SIZE (41_code_assigner.md R144). -/
def State.origBits (s : State) : Nat := 8 * s.inCount

/-- CA.SIZE: `not_compressible = (ENC_BITS ≥ ORIG_BITS)`, "equal size ⇒ rejected" (41_code_assigner.md R144). -/
def State.notCompressible (s : State) : Bool := decide (s.origBits ≤ s.encBits)

/-- `STATE <- p`. -/
def State.setPhase (p : Phase) (s : State) : State := { s with status := { s.status with phase := p } }

/-- `MODE <- m; STATE <- p`, the first action of a build (10_state.md R37). -/
def State.enter (m : Mode) (p : Phase) (s : State) : State := { s with status := { s.status with mode := m, phase := p } }

end Sys2Proof.Machine
end

