-- ==== Sys2Proof/Machine/Operands.lean ====
section
/-! DEFINITION. Operand forms: payload words as bytes (20_memory.md R70), codes as bit strings (10_state.md R25; 30_encoding.md R99),
the place of the next sub-tree of a parse (42_tree_codec.md R153), the Symbol Table and LEAF_OF as they are read. -/

namespace Sys2Proof.Machine

/-- The WB bytes of a payload word in stream order: most significant first under BE, least significant first under LE
(20_memory.md R70). -/
def wordBytes (c : Config) (w : Nat) : List Byte :=
  let be := (List.range c.WB).map fun k => BitVec.ofNat 8 (w >>> (8 * (c.WB - 1 - k)))
  match c.order with
  | .BE => be
  | .LE => be.reverse

/-- The word that bytes in stream order spell: the inverse mapping (20_memory.md R63, R70). -/
def bytesWord (c : Config) (bytes : List Byte) : Nat :=
  let spell := fun (bs : List Byte) => bs.foldl (fun w b => w * 256 + b.toNat) 0
  match c.order with
  | .BE => spell bytes
  | .LE => spell bytes.reverse

/-- A code as a bit string: `code_val[code_len−1]` down to `code_val[0]` (30_encoding.md R99). -/
def Node.codeBits (n : Node) : List Bool :=
  (List.range n.codeLen.toNat).map fun k => n.codeVal.getLsbD (n.codeLen.toNat - 1 - k)

/-- The bit a step to a side appends to a code (10_state.md R25). -/
def Side.bit : Side → Nat
  | .left => 0
  | .right => 1

/-- The `len` and `val` of the sub-tree parsed next: those of `parse(0, 0)`, or of the branch the innermost activation
waits for (42_tree_codec.md R153). -/
def nextPlace : List Frame → Nat × Nat
  | [] => (0, 0)
  | f :: _ => (f.len + 1, 2 * f.val + f.side.bit)

/-- `FREQ[s]`, hardwired to 1 for the sentinel (10_state.md R22). -/
def State.freqOf (s : State) (symbol : Fin 257) : Nat :=
  if h : symbol.val < 256 then s.freq[symbol.val] else 1

/-- A byte as a symbol of the table. -/
def byteSymbol (b : Byte) : Fin 257 := ⟨b.toNat, by have := b.isLt; omega⟩

/-- The sentinel as a symbol of the table. -/
def sentinelSymbol : Fin 257 := ⟨256, by omega⟩

/-- `LEAF_OF[s]` (10_state.md R28). -/
def State.leafIndex (s : State) (symbol : Fin 257) : Option Index := s.leafOf[symbol.val]

end Sys2Proof.Machine
end

