-- ==== Sys2Proof/Machine/Ops.lean ====
section
/-! DEFINITION. The operations every meaning shares: the ends of a command (60_exceptions.md R246), the refusals
(46_session_commands.md R226, R227), the return to Idle (R225) and reset (70_reset_and_hazards.md R270), the four stream
primitives (20_memory.md R62 to R66) and the arena (10_state.md R27). -/

namespace Sys2Proof.Machine

/-- How a micro-operation ends: it goes on with a value, it has raised a session-fatal error that ends the command
(60_exceptions.md R246), or it stops in a state no run reaches (log 7). -/
inductive Run (α : Type) where
  | go (a : α) (s : State)
  | raised (s : State)
  | fault (f : Fault)
deriving Repr

/-- Sequencing: nothing after a raised error happens (60_exceptions.md R252). -/
def Run.bind {α β : Type} (r : Run α) (k : α → State → Run β) : Run β :=
  match r with
  | .go a s => k a s
  | .raised s => .raised s
  | .fault f => .fault f

/-- A run as the outcome of a step: a raised error is a next state. -/
def Run.outcome {α : Type} (r : Run α) : Host.Outcome State Fault Refusal :=
  match r with
  | .go _ s => .next s
  | .raised s => .next s
  | .fault f => .fault f

/-! ### The ends of a command -/

/-- What is transient within a command is empty after it (10_state.md R20, R29, R32). -/
def State.dropLocals (s : State) : State := { s with q := [], pend := [], hdrStart := 0 }

/-- `raise E`, the block's trap entry: STATE <- Rejected, ERR <- code(E), LAST <- code(E); nothing is saved, MODE keeps its
value, the command ends (60_exceptions.md R246). -/
def State.raise (e : Result) (s : State) : State :=
  { s.dropLocals with status := { s.status with phase := .rejected, err := e, last := e } }

/-- `raise E` inside a run. -/
def fail {α : Type} (e : Result) (s : State) : Run α := .raised (s.raise e)

/-- `ret OK` with `STATE <- p`: LAST <- 0 (00_scope.md R9). -/
def State.retOk (p : Phase) (s : State) : State :=
  { s.dropLocals with status := { s.status with phase := p, last := .ok } }

/-- Refusal IllegalCommand: LAST <- 5, PERR_ILLEGAL <- 1, nothing else (46_session_commands.md R226). -/
def State.refuseIllegal (s : State) : State :=
  { s with status := { s.status with last := .illegalCommand, perrIllegal := true } }

/-- Refusal BadState: LAST <- 6, PERR_BADSTATE <- 1, nothing else (46_session_commands.md R227). -/
def State.refuseBadState (s : State) : State :=
  { s with status := { s.status with last := .badState, perrBadState := true } }

/-- SESSION_END, the return from a failure: every piece of state but CTRL, IN and OUT takes its reset value
(46_session_commands.md R225; 60_exceptions.md R253). ROOT and CUR, which have none, are free values
(93_implementation_defined.md V6; log 2). -/
def State.endSession (s : State) : State :=
  { State.resetWith s.cfg with
    root := Config.freeIndex s.draws
    cur := Config.freeIndex (s.draws + 1)
    draws := s.draws + 2
    ctrl := s.ctrl
    mem := s.mem
    script := s.script
    seen := s.seen }

/-- `rst`: the state of 10_state.md R48, with IN and OUT as they were (70_reset_and_hazards.md R270). -/
def State.resetBlock (s : State) : State :=
  { State.resetWith s.cfg with mem := s.mem, script := s.script, seen := s.seen, draws := s.draws }

/-! ### The streams -/

/-- The bytes of IN not yet read. -/
def Memory.rest (m : Memory) : List Byte := m.data.drop m.pos

/-- `InRead()`: the byte at the cursor, which moves past it, or EOS as `none` with the cursor left alone (20_memory.md R62). -/
def State.inRead (s : State) : Option Byte × State :=
  match s.mem.rest with
  | [] => (none, s)
  | b :: _ => (some b, { s with mem := { s.mem with pos := s.mem.pos + 1 } })

/-- `InReadWord()`: the next WB bytes as a word, or SHORT as `none` with the short tail consumed (20_memory.md R63). -/
def State.inReadWord (s : State) : Option Nat × State :=
  if s.cfg.WB ≤ s.mem.rest.length then
    (some (bytesWord s.cfg (s.mem.rest.take s.cfg.WB)), { s with mem := { s.mem with pos := s.mem.pos + s.cfg.WB } })
  else (none, { s with mem := { s.mem with pos := s.mem.data.length } })

/-- `OutWrite` of each byte in order: OUT grows by them (20_memory.md R64, R65). -/
def State.outWrite (bytes : List Byte) (s : State) : State := { s with mem := { s.mem with out := s.mem.out ++ bytes } }

/-- `OutWriteWord(w)` (20_memory.md R66). -/
def State.outWriteWord (w : Nat) (s : State) : State := s.outWrite (wordBytes s.cfg w)

/-- Host action ATTACH_IN (20_memory.md R67). -/
def State.attachIn (bytes : List Byte) (s : State) : State := { s with mem := { s.mem with data := bytes, pos := 0 } }

/-- Host action REWIND (20_memory.md R67). -/
def State.rewind (s : State) : State := { s with mem := { s.mem with pos := 0 } }

/-- Host action ATTACH_OUT (20_memory.md R67). -/
def State.attachOut (s : State) : State := { s with mem := { s.mem with out := [] } }

/-! ### The arena -/

/-- NODE_N (10_state.md R27). -/
def State.nodeN (s : State) : Nat := s.nodes.length

/-- `NODE[i]`, defined only for i < NODE_N (20_memory.md R76). -/
def State.node? (s : State) (i : Index) : Option Node := s.nodes[i.toNat]?

/-- `NODE[i]` inside a run. -/
def readNode (i : Index) (s : State) : Run Node :=
  match s.node? i with
  | some n => .go n s
  | none => .fault (.noSuchNode i)

/-- A write to the entry `i`. -/
def State.setNode (i : Index) (n : Node) (s : State) : State := { s with nodes := s.nodes.set i.toNat n }

/-- The index `alloc` hands out next (10_state.md R27). -/
def State.nextIndex (s : State) : Index := BitVec.ofNat 10 s.nodeN

/-- `alloc(n)`: NODE[NODE_N] <- n; NODE_N <- NODE_N + 1; it returns `s.nextIndex` (10_state.md R27). -/
def State.alloc (n : Node) (s : State) : State := { s with nodes := s.nodes ++ [n] }

end Sys2Proof.Machine
end

