-- ==== Sys2Proof/Machine/BitUnpacker.lean ====
section
/-! DEFINITION. The Bit Unpacker: BU.START, BU.LOAD, BU.STEP, BU.RUN (43_bit_packer_unpacker.md R177 to R179). -/

namespace Sys2Proof.Machine

/-- BU.START (43_bit_packer_unpacker.md R177). -/
def buStart (s : State) : State := { s with cur := s.root, word := 0, mask := 0 }

/-- BU.LOAD: TruncatedStream when fewer than WB bytes remain; CUR is not reset (43_bit_packer_unpacker.md R177, R181). -/
def buLoad (s : State) : Run Unit :=
  match s.inReadWord with
  | (none, s') => fail .truncatedStream s'
  | (some w, s') => .go () { s' with word := w, mask := 1 <<< (s.cfg.W - 1) }

/-- What BU.STEP does at the node it reaches: a literal is written and the walk goes back to ROOT, the sentinel stops it
(43_bit_packer_unpacker.md R178). `true` is `stop`. -/
def buArrive (n : Node) (s : State) : Run Bool :=
  match n.kind with
  | .leaf symbol =>
    if symbol = sentinel then .go true s else .go false { s.outWrite [symbolByte symbol] with cur := s.root }
  | .internal _ _ => .go false s

/-- BU.STEP: the bit under MASK chooses the right (1) or left (0) child (43_bit_packer_unpacker.md R178). -/
def buStep (s : State) : Run Bool :=
  (readNode s.cur s).bind fun n s1 =>
  let bit := decide (s1.word &&& s1.mask ≠ 0)
  match n.kind with
  | .leaf _ => .fault (.walkOnLeaf s1.cur)
  | .internal l r =>
    match (if bit then r else l) with
    | none => .fault (.noChild s1.cur)
    | some child =>
      (readNode child { s1 with mask := s1.mask >>> 1, cur := child }).bind fun m s2 => buArrive m s2

/-- `while MASK ≠ 0: if BU.STEP = stop: return`; MASK is 0 after W steps, so `fuel` is W (43_bit_packer_unpacker.md R179).
`true` is a stop. -/
def buWalk : Nat → State → Run Bool
  | 0, s => .go false s
  | fuel + 1, s =>
    if s.mask = 0 then .go false s
    else (buStep s).bind fun stop s' => if stop then .go true s' else buWalk fuel s'

/-- The decode loop: a word, then its bits, until the sentinel or a short read (43_bit_packer_unpacker.md R179). Each load
takes WB bytes, so `fuel` bounds the loads. -/
def buLoop : Nat → State → Run Unit
  | 0, s => (buLoad s).bind fun _ s' => .go () s'
  | fuel + 1, s =>
    (buLoad s).bind fun _ s1 =>
    (buWalk s1.cfg.W s1).bind fun stop s2 => if stop then .go () s2 else buLoop fuel s2

/-- BU.RUN (43_bit_packer_unpacker.md R179). -/
def buRun (s : State) : Run Unit := buLoop (s.mem.rest.length / s.cfg.WB) (buStart s)

end Sys2Proof.Machine
end

