-- ==== Sys2Proof/Machine/BitPacker.lean ====
section
/-! DEFINITION. The Bit Packer: BP.RESET, BP.PUSHBIT, BP.PUSH, BP.FLUSH (43_bit_packer_unpacker.md R171 to R174). -/

namespace Sys2Proof.Machine

/-- BP.RESET (43_bit_packer_unpacker.md R171). -/
def bpReset (s : State) : State := { s with acc := 0, cnt := 0 }

/-- BP.PUSHBIT(b): the word is written the moment its last bit arrives (43_bit_packer_unpacker.md R172). -/
def bpPushBit (b : Bool) (s : State) : State :=
  if s.cnt + 1 = s.cfg.W then bpReset (s.outWriteWord (2 * s.acc + b.toNat))
  else { s with acc := 2 * s.acc + b.toNat, cnt := s.cnt + 1 }

/-- BP.PUSH(len, val): `val[len−1]` first, `val[0]` last (43_bit_packer_unpacker.md R173). -/
def bpPush : Nat → BitVec 256 → State → State
  | 0, _, s => s
  | k + 1, val, s => bpPush k val (bpPushBit (val.getLsbD k) s)

/-- BP.FLUSH: bits that remain are left-justified and written as one word, zeros below them (43_bit_packer_unpacker.md R174). -/
def bpFlush (s : State) : State :=
  if 0 < s.cnt then bpReset (s.outWriteWord ((s.acc <<< (s.cfg.W - s.cnt)) % 2 ^ s.cfg.W)) else s

end Sys2Proof.Machine
end

