-- ==== Sys2Proof/Machine/CodeAssigner.lean ====
section
/-! DEFINITION. The Code Assigner: CA.ASSIGN (41_code_assigner.md R141); CA.SIZE is in Flags.lean. -/

namespace Sys2Proof.Machine

/-- What `visit` adds to the two totals at a leaf of depth `len` (41_code_assigner.md R141). -/
def caLeaf (symbol : Symbol) (len freq : Nat) (s : State) : State :=
  { s with
    hdrBytes := s.hdrBytes + (if symbol = sentinel then 1#10 else 2#10)
    payloadBits := s.payloadBits + len * freq }

/-- `visit(i, len, val)`: pre-order, left before right (41_code_assigner.md R141). `fuel` is how many levels below CODE_MAX
are left. -/
def caVisit : Nat → Index → Nat → Nat → State → Run Unit
  | 0, i, _, _, _ => .fault (.tooDeep i)
  | fuel + 1, i, len, val, s =>
    (readNode i s).bind fun n s1 =>
    let s2 := s1.setNode i { n with codeLen := BitVec.ofNat 9 len, codeVal := BitVec.ofNat 256 val }
    match n.kind with
    | .leaf symbol => .go () (caLeaf symbol len n.freq s2)
    | .internal (some l) (some r) =>
      (caVisit fuel l (len + 1) (2 * val) { s2 with hdrBytes := s2.hdrBytes + 1#10 }).bind fun _ s3 =>
      caVisit fuel r (len + 1) (2 * val + 1) s3
    | .internal _ _ => .fault (.noChild i)

/-- CA.ASSIGN (41_code_assigner.md R141). -/
def caAssign (s : State) : Run Unit :=
  caVisit (codeMax + 1) s.root 0 0 { s with hdrBytes := 0#10, payloadBits := 0 }

end Sys2Proof.Machine
end

