-- ==== Sys2Proof/Machine/SymbolTable.lean ====
section
/-! DEFINITION. The Symbol Table: ST.CLEAR and ST.COUNT (40_tree_builder.md R120, R121). -/

namespace Sys2Proof.Machine

/-- ST.CLEAR (40_tree_builder.md R120). -/
def stClear (s : State) : State := { s with freq := Vector.replicate 256 0, inCount := 0 }

/-- ST.COUNT(b): CounterOverflow before the byte is counted, when IN_COUNT = 2^FW − 2 (40_tree_builder.md R121). -/
def stCount (b : Byte) (s : State) : Run Unit :=
  if s.inCount = s.cfg.maxCount then fail .counterOverflow s
  else .go () { s with freq := s.freq.set b.toNat (s.freq[b.toNat] + 1), inCount := s.inCount + 1 }

/-- The tally loop of ENC_BUILD: InRead and ST.COUNT until EOS (44_encoder_commands.md R191). `fuel` is the number of
bytes not yet read. -/
def tally : Nat → State → Run Unit
  | 0, s => .go () s
  | fuel + 1, s =>
    match s.inRead with
    | (none, s') => .go () s'
    | (some b, s') => (stCount b s').bind fun _ s'' => tally fuel s''

end Sys2Proof.Machine
end

