-- ==== Sys2Proof/Machine/TreeBuilder.lean ====
section
/-! DEFINITION. The Tree Builder: TB.INIT, TB.MERGE, TB.BUILD (40_tree_builder.md R124 to R127). -/

namespace Sys2Proof.Machine

/-- A leaf of a symbol (40_tree_builder.md R124). DESIGN CHOICE: its code, which the spec gives only "once assigned" (10_state.md
R23), is 0 until CA.ASSIGN writes it (log 15). -/
def newLeaf (symbol : Fin 257) (freq : Nat) : Node := ⟨.leaf (BitVec.ofNat 9 symbol.val), freq, 0#9, 0#256⟩

/-- One turn of TB.INIT's loop (40_tree_builder.md R124). -/
def tbLeaf (symbol : Fin 257) (s : State) : State :=
  if 0 < s.freqOf symbol then
    { s.alloc (newLeaf symbol (s.freqOf symbol)) with
      leafOf := s.leafOf.set symbol.val (some s.nextIndex)
      q := s.q ++ [s.nextIndex] }
  else { s with leafOf := s.leafOf.set symbol.val none }

/-- TB.INIT: leaves in ascending order of symbol, the sentinel last; zero-frequency symbols excluded (40_tree_builder.md R124). -/
def tbInit (s : State) : State := (List.finRange 257).foldl (fun t symbol => tbLeaf symbol t) { s with q := [] }

/-- `NODE[i].freq` as TB.MERGE compares it; TB.MERGE stops first where an index of Q names no entry. -/
def State.freqAt (s : State) (i : Index) : Nat :=
  match s.node? i with
  | some n => n.freq
  | none => 0

/-- The order of Q: lower frequency first, among equal frequencies the lower arena index (40_tree_builder.md R125). -/
def State.before (s : State) (i j : Index) : Bool :=
  decide (s.freqAt i < s.freqAt j) || (decide (s.freqAt i = s.freqAt j) && decide (i.toNat < j.toNat))

/-- The element of Q with the least key, given one element and the others (40_tree_builder.md R125). -/
def State.least (s : State) (i : Index) (others : List Index) : Index :=
  others.foldl (fun m j => if s.before j m then j else m) i

/-- `remove_min(Q)` (40_tree_builder.md R125). -/
def removeMin (s : State) : Run Index :=
  match s.q with
  | [] => .fault .queueEmpty
  | i :: others => .go (s.least i others) { s with q := s.q.erase (s.least i others) }

/-- TB.MERGE: the two least elements become the children of a new Internal node, left = first removed, right = second
removed, its frequency their sum (40_tree_builder.md R126). DESIGN CHOICE: its code is 0 until CA.ASSIGN writes it (log 15). -/
def tbMerge (s : State) : Run Unit :=
  (removeMin s).bind fun a s1 =>
  (removeMin s1).bind fun b s2 =>
  (readNode a s2).bind fun na s3 =>
  (readNode b s3).bind fun nb s4 =>
  .go () { s4.alloc ⟨.internal (some a) (some b), na.freq + nb.freq, 0#9, 0#256⟩ with q := s4.q ++ [s4.nextIndex] }

/-- `while |Q| > 1: TB.MERGE`; each merge lowers |Q| by one, so `fuel` is |Q| (40_tree_builder.md R127). -/
def tbMergeAll : Nat → State → Run Unit
  | 0, s => .go () s
  | fuel + 1, s => if 1 < s.q.length then (tbMerge s).bind fun _ s' => tbMergeAll fuel s' else .go () s

/-- TB.BUILD (40_tree_builder.md R127). -/
def tbBuild (s : State) : Run Unit :=
  (tbMergeAll (tbInit s).q.length (tbInit s)).bind fun _ s' =>
  match s'.q with
  | [r] => .go () { s' with root := r }
  | _ => .fault .queueEmpty

end Sys2Proof.Machine
end

