-- ==== Sys2Proof/Machine/TreeCodec.lean ====
section
/-! DEFINITION. The Tree Codec: TC.EXPORT (42_tree_codec.md R151), the header tokens as TC.IMPORT runs them (R153) and
TC.CHECK (R155). -/

namespace Sys2Proof.Machine

/-! ### Export -/

/-- `emit(i)`: the token of the node, then its left and its right sub-tree (42_tree_codec.md R151). -/
def tcEmit : Nat → Index → State → Run Unit
  | 0, i, _ => .fault (.tooDeep i)
  | fuel + 1, i, s =>
    (readNode i s).bind fun n s1 =>
    match n.kind with
    | .leaf symbol =>
      if symbol = sentinel then .go () (s1.outWrite [markerZ]) else .go () (s1.outWrite [markerC, symbolByte symbol])
    | .internal (some l) (some r) =>
      (tcEmit fuel l (s1.outWrite [markerN])).bind fun _ s2 => tcEmit fuel r s2
    | .internal _ _ => .fault (.noChild i)

/-- TC.EXPORT (42_tree_codec.md R151). -/
def tcExport (s : State) : Run Unit := tcEmit (codeMax + 1) s.root s

/-! ### Import -/

/-- The node with its child on a side written. -/
def Node.withChild (n : Node) (side : Side) (child : Index) : Node :=
  match n.kind, side with
  | .internal _ r, .left => { n with kind := .internal (some child) r }
  | .internal l _, .right => { n with kind := .internal l (some child) }
  | .leaf _, _ => n

/-- `parse` returns the index `j` of a finished sub-tree to the activations that wait: a left child sends its parent on to
the right branch, a right child finishes its parent, and the outermost return gives ROOT (42_tree_codec.md R153). -/
def tcReturn : List Frame → Index → State → Run Unit
  | [], j, s => .go () { s with root := j, pend := [] }
  | f :: fs, j, s =>
    (readNode f.node s).bind fun n s1 =>
    let s2 := s1.setNode f.node (n.withChild f.side j)
    match f.side with
    | .left => .go () { s2 with pend := { f with side := .right } :: fs }
    | .right => tcReturn fs f.node s2

/-- The node a token allocates at the place parsed next, with frequency 0 (42_tree_codec.md R153, R161). -/
def newImported (kind : NodeKind) (s : State) : Node :=
  ⟨kind, 0, BitVec.ofNat 9 (nextPlace s.pend).1, BitVec.ofNat 256 (nextPlace s.pend).2⟩

/-- Token `N`: CapacityExceeded at a 514th node, else an Internal node whose left sub-tree is parsed next (42_tree_codec.md R153). -/
def tokenN (s : State) : Run Unit :=
  if s.nodeN = nodeCap then fail .capacityExceeded s
  else .go () { s.alloc (newImported (.internal none none) s) with
    pend := ⟨s.nextIndex, (nextPlace s.pend).1, (nextPlace s.pend).2, .left⟩ :: s.pend }

/-- A leaf token: CapacityExceeded at a 514th node, else a leaf, returned to the waiting activations (42_tree_codec.md R153). -/
def tokenLeaf (symbol : Symbol) (s : State) : Run Unit :=
  if s.nodeN = nodeCap then fail .capacityExceeded s
  else tcReturn s.pend s.nextIndex (s.alloc (newImported (.leaf symbol) s))

/-- Token `C` (42_tree_codec.md R153; 30_encoding.md R95). -/
def tokenC (symbol : Symbol) (s : State) : Run Unit := tokenLeaf symbol s

/-- Token `Z`: SENT_COUNT goes up once the node fits (42_tree_codec.md R153). -/
def tokenZ (s : State) : Run Unit :=
  if s.nodeN = nodeCap then fail .capacityExceeded s
  else tokenLeaf sentinel { s with sentCount := s.sentCount + 1#9 }

/-- What one header token does in a parse. A host command is no token; the token decoder never gives one. -/
def runToken (i : Instr) (s : State) : Run Unit :=
  match i with
  | .tokN => tokenN s
  | .tokC symbol => tokenC symbol s
  | .tokZ => tokenZ s
  | .encBuild => fail .malformedTree s
  | .encExport => fail .malformedTree s
  | .encEncode => fail .malformedTree s
  | .decBuild => fail .malformedTree s
  | .decDecode => fail .malformedTree s
  | .sessionEnd => fail .malformedTree s

/-- The next token of IN. The cursor ends just past its bytes; with none, just past the last byte read
(42_tree_codec.md R154 (a) to (c), R158). -/
def fetchToken (s : State) : Option Instr × State :=
  match decodeToken s.mem.rest with
  | .ok (i, rest) => (some i, { s with mem := { s.mem with pos := s.mem.data.length - rest.length } })
  | .error _ => (none, (s.inRead).2)

/-- The parse loop: a token, or MalformedTree where there is none, until the outermost `parse` has returned
(42_tree_codec.md R153, R154). Each token takes a byte at least, so `fuel` is the number of bytes not yet read. -/
def importLoop : Nat → State → Run Unit
  | 0, s => fail .malformedTree s
  | fuel + 1, s =>
    match fetchToken s with
    | (none, s') => fail .malformedTree s'
    | (some i, s') =>
      (runToken i s').bind fun _ s'' => if s''.pend.isEmpty then .go () s'' else importLoop fuel s''

/-- TC.IMPORT: `ROOT <- parse(0, 0)` (42_tree_codec.md R153). -/
def tcImport (s : State) : Run Unit := importLoop s.mem.rest.length { s with pend := [] }

/-- TC.CHECK: exactly one sentinel leaf, and a root that is Internal (42_tree_codec.md R155, R156). -/
def tcCheck (s : State) : Run Unit :=
  if s.sentCount = 1#9 then
    (readNode s.root s).bind fun n s1 =>
    match n.kind with
    | .leaf _ => fail .malformedTree s1
    | .internal _ _ => .go () s1
  else fail .malformedTree s

/-! ### The tokens as instructions -/

/-- A header token outside a parse is a byte at the command port: no assigned opcode, refused (30_encoding.md R92, R101;
46_session_commands.md R226; log 12). -/
def asToken (s : State) (run : State → Run Unit) : Host.Outcome State Fault Refusal :=
  if s.status.phase = .parsingTree then (run s).outcome else .next s.refuseIllegal

/-- T.N (30_encoding.md R94; 42_tree_codec.md R153). -/
def execTokN (s : State) : Host.Outcome State Fault Refusal := asToken s tokenN

/-- T.C (30_encoding.md R95; 42_tree_codec.md R153). -/
def execTokC (symbol : Symbol) (s : State) : Host.Outcome State Fault Refusal := asToken s (tokenC symbol)

/-- T.Z (30_encoding.md R96; 42_tree_codec.md R153). -/
def execTokZ (s : State) : Host.Outcome State Fault Refusal := asToken s tokenZ

end Sys2Proof.Machine
end

