-- ==== Sys2Proof/Machine/EncoderCommands.lean ====
section
/-! DEFINITION. ENC_BUILD, ENC_EXPORT, ENC_ENCODE (44_encoder_commands.md R191 to R196). -/

namespace Sys2Proof.Machine

/-- A command runs only where STATE admits it, else it is refused with BadState (10_state.md R45; 46_session_commands.md R227). -/
def admitted (ok : Bool) (s : State) (run : State → Run Unit) : Host.Outcome State Fault Refusal :=
  if ok then (run s).outcome else .next s.refuseBadState

/-- The gate and the end of ENC_BUILD (44_encoder_commands.md R191, R192). -/
def encGate (s : State) : Run Unit :=
  if s.gateEn && s.notCompressible then fail .notCompressible s else .go () (s.retOk .treeBuilt)

/-- ENC_BUILD after the tally (44_encoder_commands.md R191): EmptyInput before any node is allocated. -/
def encTree (s : State) : Run Unit :=
  if s.inCount = 0 then fail .emptyInput s
  else
    (tbBuild s).bind fun _ s1 =>
    (caAssign s1).bind fun _ s2 =>
    encGate (s2.setPhase .treeBuilt)

/-- The body of ENC_BUILD (44_encoder_commands.md R191). -/
def encBuildRun (s : State) : Run Unit :=
  (tally s.mem.rest.length (stClear (s.enter .encoder .countingFrequencies))).bind fun _ s1 => encTree s1

/-- ENC_BUILD (44_encoder_commands.md R191). -/
def execEncBuild (s : State) : Host.Outcome State Fault Refusal :=
  admitted (s.status.phase = .idle) s encBuildRun

/-- The body of ENC_EXPORT (44_encoder_commands.md R193). -/
def encExportRun (s : State) : Run Unit :=
  (tcExport (s.setPhase .exporting)).bind fun _ s1 => .go () (s1.retOk .exporting)

/-- ENC_EXPORT (44_encoder_commands.md R193). -/
def execEncExport (s : State) : Host.Outcome State Fault Refusal :=
  admitted (s.status.phase = .treeBuilt) s encExportRun

/-- `BP.PUSH(NODE[i].code_len, NODE[i].code_val)` (44_encoder_commands.md R194). -/
def pushCode (i : Index) (s : State) : Run Unit :=
  (readNode i s).bind fun n s1 => .go () (bpPush n.codeLen.toNat n.codeVal s1)

/-- One symbol of the second pass: its code, or NoCode with the accumulator dropped (44_encoder_commands.md R194, R196). -/
def encSymbol (b : Byte) (s : State) : Run Unit :=
  match s.leafIndex (byteSymbol b) with
  | none => fail .noCode (bpReset s)
  | some i => pushCode i s

/-- The packing loop: InRead and a code until EOS (44_encoder_commands.md R194). `fuel` is the number of bytes not yet read. -/
def packLoop : Nat → State → Run Unit
  | 0, s => .go () s
  | fuel + 1, s =>
    match s.inRead with
    | (none, s') => .go () s'
    | (some b, s') => (encSymbol b s').bind fun _ s'' => packLoop fuel s''

/-- The sentinel's code, "once, last" (44_encoder_commands.md R194). -/
def pushSentinel (s : State) : Run Unit :=
  match s.leafIndex sentinelSymbol with
  | none => .fault .noSentinelLeaf
  | some i => pushCode i s

/-- The body of ENC_ENCODE (44_encoder_commands.md R194). -/
def encEncodeRun (s : State) : Run Unit :=
  (packLoop s.mem.rest.length (bpReset (s.setPhase .packing))).bind fun _ s1 =>
  (pushSentinel s1).bind fun _ s2 => .go () ((bpFlush s2).retOk .done)

/-- ENC_ENCODE (44_encoder_commands.md R194). -/
def execEncEncode (s : State) : Host.Outcome State Fault Refusal :=
  admitted (s.status.phase = .exporting) s encEncodeRun

end Sys2Proof.Machine
end

