-- ==== Sys2Proof/Machine/DecoderCommands.lean ====
section
/-! DEFINITION. DEC_BUILD and DEC_DECODE (45_decoder_commands.md R211 to R213). -/

namespace Sys2Proof.Machine

/-- DEC_BUILD up to its first token (45_decoder_commands.md R211): `p0 <- IN.pos`. -/
def decStart (s : State) : State :=
  { s.enter .decoder .parsingTree with sentCount := 0#9, hdrStart := s.mem.pos }

/-- DEC_BUILD after the parse: TC.CHECK, HDR_BYTES, Ready (45_decoder_commands.md R211). -/
def decFinish (s : State) : Run Unit :=
  (tcCheck s).bind fun _ s1 =>
  .go () ({ s1 with hdrBytes := BitVec.ofNat 10 (s1.mem.pos - s1.hdrStart) }.retOk .ready)

/-- The body of DEC_BUILD (45_decoder_commands.md R211). -/
def decBuildRun (s : State) : Run Unit := (tcImport (decStart s)).bind fun _ s1 => decFinish s1

/-- DEC_BUILD (45_decoder_commands.md R211). -/
def execDecBuild (s : State) : Host.Outcome State Fault Refusal :=
  admitted (s.status.phase = .idle) s decBuildRun

/-- The body of DEC_DECODE (45_decoder_commands.md R212). -/
def decDecodeRun (s : State) : Run Unit :=
  (buRun (s.setPhase .decoding)).bind fun _ s1 => .go () (s1.retOk .done)

/-- DEC_DECODE (45_decoder_commands.md R212). -/
def execDecDecode (s : State) : Host.Outcome State Fault Refusal :=
  admitted (s.status.phase = .ready) s decDecodeRun

end Sys2Proof.Machine
end

