-- ==== Sys2Proof/Machine/Accesses.lean ====
section
/-! DEFINITION. The stream accesses of a command, one byte each (20_memory.md R73), in the order in which the pseudocode of its
rule performs them (R78): what a reset in the middle of the command cuts a prefix of (70_reset_and_hazards.md R272). That they
are cut at every byte, also of IN, is DEDUCED (log 8). -/

namespace Sys2Proof.Machine

/-- One access to a stream: a byte of IN is read, or a byte is written to OUT. -/
inductive Access where
  | read
  | write (b : Byte)
deriving DecidableEq, Repr

/-- The streams after one access (20_memory.md R62, R65). -/
def Memory.access (m : Memory) (a : Access) : Memory :=
  match a with
  | .read => { m with pos := m.pos + 1 }
  | .write b => { m with out := m.out ++ [b] }

/-- The streams after a list of accesses, first one first. -/
def Memory.perform (m : Memory) (l : List Access) : Memory := l.foldl Memory.access m

/-- The accesses between two states of a command that first reads and then writes. -/
def stretch (s t : State) : List Access :=
  List.replicate (t.mem.pos - s.mem.pos) .read ++ (t.mem.out.drop s.mem.out.length).map .write

/-- The accesses of a command that passes through a list of states, reading and then writing from each to the next. -/
def trace : State → List State → List Access
  | _, [] => []
  | s, t :: rest => stretch s t ++ trace t rest

/-- The states of ENC_ENCODE after each byte read and packed: the byte is read before its code's words are written
(44_encoder_commands.md R194). `fuel` is the number of bytes not yet read. -/
def packPoints : Nat → State → List State
  | 0, _ => []
  | fuel + 1, s =>
    match s.inRead with
    | (none, _) => []
    | (some b, s') =>
      match encSymbol b s' with
      | .go _ s'' => s'' :: packPoints fuel s''
      | .raised _ => []
      | .fault _ => []

/-- The states of DEC_DECODE after each word loaded and walked: the word is read before its literals are written
(43_bit_packer_unpacker.md R179). `fuel` bounds the loads, as in BU.RUN. -/
def wordPoints : Nat → State → List State
  | 0, _ => []
  | fuel + 1, s =>
    match buLoad s with
    | .go _ s1 =>
      match buWalk s1.cfg.W s1 with
      | .go stop s2 => s2 :: (if stop then [] else wordPoints fuel s2)
      | .raised _ => []
      | .fault _ => []
    | .raised _ => []
    | .fault _ => []

/-- The states a command passes through before its end such that from each to the next it reads and then writes. Only
ENC_ENCODE and DEC_DECODE, where they are admitted, read after a write; a header token is no command. -/
def points (i : Instr) (s : State) : List State :=
  match i with
  | .encBuild => []
  | .encExport => []
  | .encEncode => if s.status.phase = .exporting then packPoints s.mem.rest.length (bpReset (s.setPhase .packing)) else []
  | .decBuild => []
  | .decDecode =>
    if s.status.phase = .ready then wordPoints (s.mem.rest.length / s.cfg.WB) (buStart (s.setPhase .decoding)) else []
  | .sessionEnd => []
  | .tokN => []
  | .tokC _ => []
  | .tokZ => []

/-- The accesses, in order, of the command of opcode `v` that takes `s` to `t`; a refused opcode makes none. -/
def commandAccesses (v : Byte) (s t : State) : List Access :=
  match decodeCommand v with
  | .ok i => trace s (points i s ++ [t])
  | .error _ => []

end Sys2Proof.Machine
end

