-- ==== Sys2Proof/Machine/SessionCommands.lean ====
section
/-! DEFINITION. SESSION_END (46_session_commands.md R225). -/

namespace Sys2Proof.Machine

/-- SESSION_END: admitted in every resting state, it cannot fail (46_session_commands.md R225). -/
def execSessionEnd (s : State) : Host.Outcome State Fault Refusal :=
  admitted s.status.phase.resting s fun t => .go () t.endSession

end Sys2Proof.Machine
end

