-- ==== Sys2Proof/Machine/Dispatch.lean ====
section
/-! DEFINITION. One arm for each instruction. -/

namespace Sys2Proof.Machine

def exec (i : Instr) (s : State) : Host.Outcome State Fault Refusal :=
  match i with
  | .encBuild => Sys2Proof.Machine.execEncBuild s
  | .encExport => Sys2Proof.Machine.execEncExport s
  | .encEncode => Sys2Proof.Machine.execEncEncode s
  | .decBuild => Sys2Proof.Machine.execDecBuild s
  | .decDecode => Sys2Proof.Machine.execDecDecode s
  | .sessionEnd => Sys2Proof.Machine.execSessionEnd s
  | .tokN => Sys2Proof.Machine.execTokN s
  | .tokC symbol => Sys2Proof.Machine.execTokC symbol s
  | .tokZ => Sys2Proof.Machine.execTokZ s

end Sys2Proof.Machine
end

