-- ==== Sys2Proof/Machine/HostPort.lean ====
section
/-! DEFINITION. What the host does to the block: register reads and writes (10_state.md R34, R35), stream actions
(20_memory.md R67), reset (70_reset_and_hazards.md R270, R272), and the parse in progress that a token step runs. -/

namespace Sys2Proof.Machine

/-- `RegRead(n)` (10_state.md R34): CMD and every number above 7 read 0. -/
def regRead (n : Nat) (s : State) : Nat :=
  match n with
  | 1 => s.status.word.toNat
  | 2 => s.ctrl.toNat
  | 3 => s.inCount
  | 4 => s.hdrBytes.toNat
  | 5 => s.payloadBits
  | 6 => s.nodeN
  | 7 => s.sentCount.toNat
  | _ => 0

/-- A write to CTRL: bit 0 is taken, bits 7:1 are ignored and read 0 (10_state.md R39). -/
def State.writeCtrl (v : Byte) (s : State) : State := { s with ctrl := v &&& 0x01#8 }

/-- The command of opcode `v`: an unassigned opcode is refused (10_state.md R35; 46_session_commands.md R226). -/
def issue (v : Byte) (s : State) : Host.Outcome State Fault Refusal :=
  match decodeCommand v with
  | .ok i => exec i s
  | .error _ => .next s.refuseIllegal

/-- The host receives something (10_state.md R49). -/
def State.tell (e : HostEvent) (s : State) : State := { s with seen := s.seen ++ [e] }

/-- A command that has ended delivers its result, equal to LAST, on `rsp` (10_state.md R49; 60_exceptions.md R240). -/
def reply (o : Host.Outcome State Fault Refusal) : Host.Outcome State Fault Refusal :=
  match o with
  | .next t => .next (t.tell (.rsp t.status.last))
  | .fault f => .fault f
  | .refused r => .refused r

/-- A write to CMD: the command runs to its end and its result is delivered (10_state.md R35). -/
def command (v : Byte) (s : State) : Host.Outcome State Fault Refusal := reply (issue v s)

/-- `RegWrite(n, v)`: only CMD and CTRL take a write (10_state.md R34). -/
def regWrite (n : Nat) (v : Byte) (s : State) : Host.Outcome State Fault Refusal :=
  match n with
  | 0 => command v s
  | 2 => .next (s.writeCtrl v)
  | _ => .next s

/-- What is left of the command of opcode `v`, which would have taken `before` to `after`, when `rst` cuts it off: the reset
state, with the streams as a prefix of the command's accesses leaves them (70_reset_and_hazards.md R272). How long the prefix
is is a free value (log 8). -/
def cutOff (v : Byte) (before after : State) : State :=
  { before.resetBlock with
    mem := before.mem.perform ((commandAccesses v before after).take (Config.freeCount before.draws))
    draws := before.draws + 1 }

/-- `rst` while the command of opcode `v` runs: no result is reported (70_reset_and_hazards.md R272). -/
def rstDuring (v : Byte) (s : State) : Host.Outcome State Fault Refusal :=
  match issue v s with
  | .next t => .next (cutOff v s t)
  | .fault f => .fault f
  | .refused r => .refused r

/-- The next `n` statements of the host's script are dropped. -/
def State.dropScript (n : Nat) (s : State) : State := { s with script := s.script.drop n }

/-- One action of the host at a block at rest (20_memory.md R67; 10_state.md R34; 30_encoding.md R104, R105). -/
def hostAct (a : HostAction) (s : State) : Host.Outcome State Fault Refusal :=
  match a with
  | .attachIn bytes => .next (s.attachIn bytes)
  | .rewind => .next s.rewind
  | .attachOut => .next s.attachOut
  | .takeOut => .next (s.tell (.taken s.mem.out))
  | .regRead n => .next (s.tell (.rdata n (regRead n s)))
  | .regWrite n v => regWrite n v s
  | .stopUnlessOk n => .next (if s.status.last = .ok then s else s.dropScript n)
  | .rst => .next s.resetBlock
  | .rstDuring v => rstDuring v s

/-- The host's turn: the head of its script, or, with nothing to do, a wait that keeps all state (70_reset_and_hazards.md R270;
60_exceptions.md R257). -/
def hostTurn (s : State) : Host.Outcome State Fault Refusal :=
  match s.script with
  | [] => .next s
  | a :: rest => hostAct a { s with script := rest }

/-- After a token of a parse: a raised error has ended DEC_BUILD; where the outermost `parse` has returned, DEC_BUILD goes on
to its end (45_decoder_commands.md R211); else the next token is due. -/
def afterToken (s : State) : Host.Outcome State Fault Refusal :=
  if s.status.phase = .parsingTree then
    if s.pend.isEmpty then reply (decFinish s).outcome else .next s
  else reply (.next s)

/-- One token of a parse in progress: fetched from IN at the cursor, run, and DEC_BUILD ended where it ends
(42_tree_codec.md R153; log 12). -/
def parseTurn (s : State) : Host.Outcome State Fault Refusal :=
  match fetchToken s with
  | (none, s') => reply (.next (s'.raise .malformedTree))
  | (some i, s') =>
    match exec i s' with
    | .next t => afterToken t
    | .fault f => .fault f
    | .refused r => .refused r

/-- The pseudo-instruction ENCODE_ALL as a host script (30_encoding.md R105). -/
def encodeAll : List HostAction :=
  [.regWrite 0 0x01#8, .stopUnlessOk 4, .rewind, .regWrite 0 0x02#8, .stopUnlessOk 1, .regWrite 0 0x03#8]

/-- The pseudo-instruction DECODE_ALL as a host script (30_encoding.md R105). -/
def decodeAll : List HostAction := [.regWrite 0 0x11#8, .stopUnlessOk 1, .regWrite 0 0x12#8]

/-- A script that runs exactly the command whose byte stands in CMD next. -/
def State.withCommand (v : Byte) (s : State) : State :=
  { s with
    script := .regWrite 0 v :: s.script
    status := { s.status with phase := if s.status.phase.resting then s.status.phase else .idle } }

/-- A parse in progress whose next token stands at the cursor of IN. -/
def State.withToken (bytes : List Byte) (s : State) : State :=
  { s with
    mem := { s.mem with data := bytes, pos := 0 }
    status := { s.status with phase := .parsingTree, mode := .decoder } }

/-- Where a table row's bits stand so that the next step runs them (log 6, log 12). -/
def placeWord (s : State) (nbits w : Nat) : State :=
  match decodeTableWord nbits w with
  | some i =>
    if i.isToken then s.withToken (tableBytes nbits w)
    else s.withCommand ((tableBytes nbits w).headD 0#8)
  | none => s.withCommand ((tableBytes nbits w).headD 0#8)

end Sys2Proof.Machine
end

