-- ==== Sys2Proof/Machine/Step.lean ====
section
/-! DEFINITION. One step of the machine. -/

namespace Sys2Proof.Machine

/-- A resting block takes the host's next action (46_session_commands.md R228); a parse in progress takes its next header
token (42_tree_codec.md R153); in the other transient states the host may not act (70_reset_and_hazards.md R282; log 9). -/
def step (s : State) : Host.Outcome State Fault Refusal :=
  if s.status.phase.resting then hostTurn s
  else if s.status.phase = .parsingTree then parseTurn s
  else .refused .hostDuringCommand

/-- The same instruction stored where `step` fetches its next one: a command byte as the host's next write to CMD, a header
token at the cursor of a parse in progress (log 6, log 12). -/
def State.withFetchWord (s : State) (nbits w : Nat) : State := placeWord s nbits w

end Sys2Proof.Machine
end

