-- ==== Sys2Proof/Machine/Reference.lean ====
section
/-! DEFINITION. The recursive `parse` of 42_tree_codec.md R153, line for line as the spec writes it: the reference that the
token-by-token parse of TreeCodec.lean is stated to refine. `step` does not use it. -/

namespace Sys2Proof.Machine

/-- `NODE[i].side <- child`. -/
def writeChild (i : Index) (side : Side) (child : Index) (s : State) : Run Unit :=
  (readNode i s).bind fun n s1 => .go () (s1.setNode i (n.withChild side child))

/-- `parse(len, val)`: it returns the index of the sub-tree's root. Each call reads a byte, so `fuel` is more than the bytes
not yet read. -/
def parseRec : Nat → Nat → Nat → State → Run Index
  | 0, _, _, s => fail .malformedTree s
  | fuel + 1, len, val, s =>
    match s.inRead with
    | (none, s1) => fail .malformedTree s1
    | (some t, s1) =>
      if t = 0x4E#8 then
        if s1.nodeN = 513 then fail .capacityExceeded s1
        else
          let i := s1.nextIndex
          (parseRec fuel (len + 1) (2 * val)
            (s1.alloc ⟨.internal none none, 0, BitVec.ofNat 9 len, BitVec.ofNat 256 val⟩)).bind fun l s2 =>
          (writeChild i .left l s2).bind fun _ s3 =>
          (parseRec fuel (len + 1) (2 * val + 1) s3).bind fun r s4 =>
          (writeChild i .right r s4).bind fun _ s5 => .go i s5
      else if t = 0x43#8 then
        match s1.inRead with
        | (none, s2) => fail .malformedTree s2
        | (some b, s2) =>
          if s2.nodeN = 513 then fail .capacityExceeded s2
          else .go s2.nextIndex (s2.alloc ⟨.leaf (b.setWidth 9), 0, BitVec.ofNat 9 len, BitVec.ofNat 256 val⟩)
      else if t = 0x5A#8 then
        if s1.nodeN = 513 then fail .capacityExceeded s1
        else
          let s2 := { s1 with sentCount := s1.sentCount + 1#9 }
          .go s2.nextIndex (s2.alloc ⟨.leaf 256#9, 0, BitVec.ofNat 9 len, BitVec.ofNat 256 val⟩)
      else fail .malformedTree s1

/-- `ROOT <- parse(0, 0)`. -/
def importRec (s : State) : Run Unit :=
  (parseRec (s.mem.rest.length + 1) 0 0 s).bind fun r s1 => .go () { s1 with root := r }

end Sys2Proof.Machine
end

