-- ==== Sys2Proof/Machine/Tree.lean ====
section
/-! DEFINITION. The tree that an arena holds, as an inductive type (10_state.md R27: "a model may hold the tree as an inductive
type"), with its header (42_tree_codec.md R150), its codes (10_state.md R25) and the payload format (30_encoding.md R98), all
written from the spec's definitions and not from the machine. `step` does not use them: the invariant and the statements do. -/

namespace Sys2Proof.Machine

/-- A Huffman tree: strictly binary, symbols at the leaves (10_state.md R24). -/
inductive Tree where
  | leaf (symbol : Symbol)
  | node (left right : Tree)
deriving DecidableEq, Repr

/-- The tree at an index of an arena, at most `fuel` levels deep; `none` where the entries hold none. -/
def readTree : Nat → List Node → Index → Option Tree
  | 0, _, _ => none
  | fuel + 1, nodes, i =>
    match nodes[i.toNat]? with
    | none => none
    | some n =>
      match n.kind with
      | .leaf symbol => some (.leaf symbol)
      | .internal (some l) (some r) =>
        match readTree fuel nodes l, readTree fuel nodes r with
        | some a, some b => some (.node a b)
        | _, _ => none
      | .internal _ _ => none

/-- The tree at ROOT. -/
def State.tree? (s : State) : Option Tree := readTree (codeMax + 1) s.nodes s.root

/-- The header bytes of a tree: the grammar, depth-first, left before right (42_tree_codec.md R150). -/
def Tree.header : Tree → List Byte
  | .leaf symbol => if symbol = sentinel then [0x5A#8] else [0x43#8, symbol.setWidth 8]
  | .node l r => 0x4E#8 :: (l.header ++ r.header)

/-- The tokens of the header in stream order, each as its bytes (30_encoding.md R94 to R96). -/
def Tree.tokens : Tree → List (List Byte)
  | .leaf symbol => if symbol = sentinel then [[0x5A#8]] else [[0x43#8, symbol.setWidth 8]]
  | .node l r => [0x4E#8] :: (l.tokens ++ r.tokens)

/-- Nodes of the tree, leaves and internal. -/
def Tree.size : Tree → Nat
  | .leaf _ => 1
  | .node l r => l.size + r.size + 1

/-- The leaves' symbols, left to right. -/
def Tree.symbols : Tree → List Symbol
  | .leaf symbol => [symbol]
  | .node l r => l.symbols ++ r.symbols

/-- Every leaf with its path from the root, `false` a step to the left and `true` a step to the right (10_state.md R25). -/
def Tree.codes : Tree → List (Symbol × List Bool)
  | .leaf symbol => [(symbol, [])]
  | .node l r => (l.codes.map fun c => (c.1, false :: c.2)) ++ (r.codes.map fun c => (c.1, true :: c.2))

/-- Every leaf symbol is one a header can carry: 0..256 (10_state.md R21). -/
def Tree.symbolsOk (t : Tree) : Bool := t.symbols.all fun symbol => decide (symbol.toNat ≤ 256)

/-- The number of sentinel leaves. -/
def Tree.sentinels (t : Tree) : Nat := t.symbols.count sentinel

/-- Is the root Internal? -/
def Tree.isNode : Tree → Bool
  | .leaf _ => false
  | .node _ _ => true

/-- A tree that DEC_BUILD accepts: it fits the arena, has exactly one sentinel leaf and an Internal root
(42_tree_codec.md R155 to R157). -/
def Tree.acceptable (t : Tree) : Bool :=
  t.symbolsOk && decide (t.size ≤ nodeCap) && decide (t.sentinels = 1) && t.isNode

/-- The index reached from an index along a path (10_state.md R25). -/
def follow (nodes : List Node) : Index → List Bool → Option Index
  | i, [] => if i.toNat < nodes.length then some i else none
  | i, b :: path =>
    match nodes[i.toNat]? with
    | none => none
    | some n =>
      match n.kind with
      | .leaf _ => none
      | .internal l r =>
        match (if b then r else l) with
        | none => none
        | some j => follow nodes j path

/-- A bit string as a number, first bit most significant: Σ b_k · 2^(L−k) (10_state.md R25). -/
def bitsNat (bits : List Bool) : Nat := bits.foldl (fun v b => 2 * v + b.toNat) 0

/-- Word k of a bit string: bits k·W to k·W + W − 1, the earliest in bit W−1, zeros past the end (30_encoding.md R98). -/
def wordAt (W : Nat) (bits : List Bool) (k : Nat) : Nat :=
  bitsNat ((List.range W).map fun j => (bits[k * W + j]?).getD false)

/-- The ⌈|B| / W⌉ words of a bit string (30_encoding.md R98). -/
def payloadWords (W : Nat) (bits : List Bool) : List Nat :=
  (List.range ((bits.length + W - 1) / W)).map (wordAt W bits)

/-- The bits of a word from bit W−1 down to bit 0 (20_memory.md R69). -/
def wordBits (W w : Nat) : List Bool := (List.range W).map fun j => w.testBit (W - 1 - j)

/-- The decoder's walk: from `cur` in the tree `root`, one step a bit; a literal leaf is emitted and the walk goes back to the
root; the sentinel ends it, with the bits not walked (43_bit_packer_unpacker.md R176). -/
def decodeBits (root : Tree) : Tree → List Bool → List Byte × Option (List Bool)
  | _, [] => ([], none)
  | .leaf _, _ :: _ => ([], none)
  | .node l r, b :: bits =>
    match (if b then r else l) with
    | .leaf symbol =>
      if symbol = sentinel then ([], some bits)
      else (symbol.setWidth 8 :: (decodeBits root root bits).1, (decodeBits root root bits).2)
    | .node l' r' => decodeBits root (.node l' r') bits

/-- Σ over leaves of depth · weight, the weighted path length (40_tree_builder.md R131). -/
def Tree.cost (weight : Symbol → Nat) (t : Tree) : Nat := (t.codes.map fun c => c.2.length * weight c.1).sum

end Sys2Proof.Machine
end

