-- ==== Sys2Proof/Safety.lean ====
section
/-! DEFINITION. What counts as a safe state and a safe step, in the terms the statements use. -/

namespace Sys2Proof.Machine

/-- STATE is one of those between two commands in which a tree is held (10_state.md R27). -/
def Phase.holdsTree : Phase → Bool
  | .idle => false
  | .countingFrequencies => false
  | .treeBuilt => true
  | .exporting => true
  | .packing => false
  | .parsingTree => false
  | .ready => true
  | .decoding => false
  | .done => true
  | .rejected => false

/-- Nothing of a session is left: the stores of a session have their reset values (10_state.md R48). -/
def State.clean (s : State) : Prop :=
  s.freq = Vector.replicate 256 0 ∧ s.nodes = [] ∧ s.leafOf = Vector.replicate 257 none ∧ s.word = 0 ∧ s.mask = 0 ∧
  s.inCount = 0 ∧ s.hdrBytes = 0#10 ∧ s.payloadBits = 0 ∧ s.sentCount = 0#9

/-- LEAF_OF names a leaf of its symbol or nothing, and the sentinel has a leaf (10_state.md R28; 40_tree_builder.md R124). -/
def State.leavesOk (s : State) : Prop :=
  (∀ symbol : Fin 257, ∀ i, s.leafIndex symbol = some i →
    ∃ n, s.node? i = some n ∧ n.kind = .leaf (BitVec.ofNat 9 symbol.val)) ∧
  (s.leafIndex sentinelSymbol).isSome

/-- What holds of the block between two actions of the host. -/
structure Inv (s : State) : Prop where
  /-- 0 ≤ pos ≤ len (20_memory.md R61). -/
  streams : s.mem.wf = true
  /-- Only resting states are ever seen between commands (10_state.md R36). -/
  resting : s.status.phase.resting = true
  /-- MODE is 0 in Idle and only there (10_state.md R37). -/
  mode_idle : s.status.mode = .none ↔ s.status.phase = .idle
  /-- TreeBuilt and Exporting are states of the encoder (10_state.md R36). -/
  mode_encoder : s.status.phase = .treeBuilt ∨ s.status.phase = .exporting → s.status.mode = .encoder
  /-- Ready is a state of the decoder (10_state.md R36). -/
  mode_decoder : s.status.phase = .ready → s.status.mode = .decoder
  /-- ERR ≠ 0 if and only if STATE = Rejected (10_state.md R38). -/
  err_rejected : s.status.err ≠ .ok ↔ s.status.phase = .rejected
  /-- ERR holds 0 or a session-fatal code (10_state.md R38). -/
  err_fatal : s.status.err = .ok ∨ s.status.err.fatal = true
  /-- CTRL bits 7:1 read 0 (10_state.md R39). -/
  ctrl : s.ctrl &&& 0xFE#8 = 0#8
  /-- What is transient within a command is empty; ACC and CNT are 0 outside ENC_ENCODE (10_state.md R20, R30). -/
  locals : s.q = [] ∧ s.pend = [] ∧ s.hdrStart = 0 ∧ s.acc = 0 ∧ s.cnt = 0
  /-- 0 ≤ IN_COUNT ≤ 2^FW − 2 (10_state.md R40). -/
  inCount : s.inCount ≤ s.cfg.maxCount
  /-- PAYLOAD_BITS fits FW + 8 bits (10_state.md R42). -/
  payloadBits : s.payloadBits < 2 ^ (s.cfg.FW + 8)
  /-- Each counter fits FW bits (10_state.md R22; 40_tree_builder.md R121: `FREQ[b]` ≤ IN_COUNT). -/
  freq : ∀ b : Fin 256, s.freq[b] ≤ s.inCount
  /-- Each node's frequency fits FW bits (10_state.md R23). -/
  nodeFreq : ∀ n ∈ s.nodes, n.freq < 2 ^ s.cfg.FW
  /-- WORD and MASK fit W bits (10_state.md R31). -/
  word : s.word < 2 ^ s.cfg.W ∧ s.mask < 2 ^ s.cfg.W
  /-- NODE_N ≤ 513 (10_state.md R27). -/
  arena : s.nodeN ≤ nodeCap
  /-- Idle holds nothing of an earlier session (46_session_commands.md R225). -/
  idle_clean : s.status.phase = .idle → s.clean
  /-- Where a tree is held, ROOT is an Internal node of a tree of which HDR_BYTES is the header's size (42_tree_codec.md R152, R156). -/
  tree : s.status.phase.holdsTree = true → ∃ t, s.tree? = some t ∧ t.isNode = true ∧ s.hdrBytes.toNat = t.header.length
  /-- In an encode session LEAF_OF leads to the leaves (10_state.md R28). -/
  leaves : s.status.phase = .treeBuilt ∨ s.status.phase = .exporting → s.leavesOk

/-- A safe step goes on: it neither faults nor is refused. -/
def SafeStep (s : State) : Prop := ∃ t, step s = .next t

end Sys2Proof.Machine
end

