-- ==== Sys2Proof/Certificates/Slice0/Obligations.lean ====
section
/-! DEFINITION. The statements for the provers, each about the machine and none about a program. -/

open Sys2Proof Sys2Proof.Machine

/-! ### Vocabulary -/

namespace Sys2Proof.Machine

/-- The bytes of IN that a command starting in this state will read. -/
def State.input (s : State) : List Byte := s.mem.data.drop s.mem.pos

/-- The values the spec gives for reset (10_state.md R48), whichever way it came about; ROOT and CUR have none. -/
def ResetValues (s : State) : Prop :=
  s.status.word = 0x0000#16 ∧ s.ctrl = 0x01#8 ∧ s.inCount = 0 ∧ s.hdrBytes = 0#10 ∧ s.payloadBits = 0 ∧
  s.sentCount = 0#9 ∧ s.nodeN = 0 ∧ (∀ symbol, s.leafIndex symbol = none) ∧
  (∀ symbol : Fin 257, s.freqOf symbol = if symbol.val = 256 then 1 else 0) ∧
  s.acc = 0 ∧ s.cnt = 0 ∧ s.word = 0 ∧ s.mask = 0 ∧ s.q = [] ∧ s.pend = []

/-- The states that admit a command (10_state.md R45; 46_session_commands.md R227). -/
def admits : Instr → Phase → Prop
  | .encBuild, p => p = .idle
  | .encExport, p => p = .treeBuilt
  | .encEncode, p => p = .exporting
  | .decBuild, p => p = .idle
  | .decDecode, p => p = .ready
  | .sessionEnd, p => p = .idle ∨ p = .treeBuilt ∨ p = .exporting ∨ p = .ready ∨ p = .done ∨ p = .rejected
  | .tokN, _ => False
  | .tokC _, _ => False
  | .tokZ, _ => False

/-- How often a symbol occurs in an original stream, the sentinel once (40_tree_builder.md R122). -/
def occurrences (bytes : List Byte) (symbol : Symbol) : Nat :=
  if symbol = sentinel then 1 else if symbol.toNat < 256 then bytes.count (symbol.setWidth 8) else 0

/-- The code LEAF_OF leads to, as a bit string (30_encoding.md R99). -/
def State.codeOf (s : State) (symbol : Fin 257) : List Bool :=
  match s.leafIndex symbol with
  | none => []
  | some i =>
    match s.node? i with
    | none => []
    | some n => (List.range n.codeLen.toNat).map fun k => n.codeVal.getLsbD (n.codeLen.toNat - 1 - k)

/-- A bit string as payload bytes (30_encoding.md R98). -/
def payloadBytes (c : Config) (bits : List Bool) : List Byte := (payloadWords c.W bits).flatMap (wordBytes c)

/-- The bits of the whole words a byte sequence holds, each word's bit W−1 first (20_memory.md R63, R69). -/
def streamBits (c : Config) (bytes : List Byte) : List Bool :=
  (List.range (bytes.length / c.WB)).flatMap fun k => wordBits c.W (bytesWord c ((bytes.drop (k * c.WB)).take c.WB))

/-- Words of W bits that hold so many bits. -/
def wordCount (W bits : Nat) : Nat := (bits + W - 1) / W

/-- The waiting activations after a sub-tree has been returned to them (42_tree_codec.md R153). -/
def resume : List Frame → List Frame
  | [] => []
  | f :: fs =>
    match f.side with
    | .left => { f with side := .right } :: fs
    | .right => resume fs

/-- `NODE[f.node].left <- child` or `NODE[f.node].right <- child`, by the side the activation waits for (42_tree_codec.md
R153). -/
def putChild (nodes : List Node) (f : Frame) (child : Index) : List Node :=
  match nodes[f.node.toNat]? with
  | none => nodes
  | some n =>
    match n.kind with
    | .leaf _ => nodes
    | .internal l r =>
      nodes.set f.node.toNat
        { n with kind := if f.side = .left then .internal (some child) r else .internal l (some child) }

/-- Every waiting activation names an Internal entry of the arena. -/
def FramesOk (s : State) : Prop := ∀ f ∈ s.pend, ∃ n l r, s.node? f.node = some n ∧ n.kind = .internal l r

/-- Is the entry a leaf? -/
def Node.isLeaf (n : Node) : Bool :=
  match n.kind with
  | .leaf _ => true
  | .internal _ _ => false

/-- STATUS after a session-fatal failure (60_exceptions.md R246). -/
def Status.failed (t : Status) (e : Result) : Status := { t with phase := .rejected, err := e, last := e }

/-- STATUS after a success that ends in a state. -/
def Status.passed (t : Status) (p : Phase) : Status := { t with phase := p, last := .ok }

end Sys2Proof.Machine

/-! ### Encodings -/

/-- 30_encoding.md R92: the six opcodes, and no other value of `op` is assigned. -/
def Obligations.CommandOpcodesAreTheMap : Prop :=
  ∀ (op : Byte) (i : Instr), decodeCommand op = .ok i ↔
    (op = 0x01#8 ∧ i = .encBuild) ∨ (op = 0x02#8 ∧ i = .encExport) ∨ (op = 0x03#8 ∧ i = .encEncode) ∨
    (op = 0x11#8 ∧ i = .decBuild) ∨ (op = 0x12#8 ∧ i = .decDecode) ∨ (op = 0x20#8 ∧ i = .sessionEnd)

/-- 30_encoding.md R92, R94 to R96: decoding and encoding are inverse, in both directions. -/
def Obligations.DecodeAndEncodeAgree : Prop :=
  (∀ (i : Instr) (rest : List Byte), i.wellFormed = true → decode (encode i ++ rest) = .ok (i, rest)) ∧
  (∀ (bytes rest : List Byte) (i : Instr), decode bytes = .ok (i, rest) → i.wellFormed = true ∧ bytes = encode i ++ rest)

/-- 30_encoding.md R95: every literal byte is legal and becomes the symbol zext_9(lit), 0..255. -/
def Obligations.EveryLiteralByteIsLegal : Prop :=
  ∀ (lit : Byte) (rest : List Byte),
    decodeToken (0x43#8 :: lit :: rest) = .ok (.tokC (lit.setWidth 9), rest) ∧
    (lit.setWidth 9 : Symbol).toNat = lit.toNat ∧ (Instr.tokC (lit.setWidth 9)).wellFormed = true

/-- 30_encoding.md R102: exactly the three markers begin a token; any other byte is no marker. -/
def Obligations.OnlyThreeMarkersBeginAToken : Prop :=
  ∀ (m : Byte) (rest : List Byte),
    decodeToken (m :: rest) = .error (.badMarker m) ↔ m ≠ 0x4E#8 ∧ m ≠ 0x43#8 ∧ m ≠ 0x5A#8

/-- spec/opcode_table.json: words written out from its match column decode to their rows. -/
def Obligations.TableWordsDecode : Prop :=
  decodeTableWord 8 0x01 = some .encBuild ∧ decodeTableWord 8 0x02 = some .encExport ∧
  decodeTableWord 8 0x03 = some .encEncode ∧ decodeTableWord 8 0x11 = some .decBuild ∧
  decodeTableWord 8 0x12 = some .decDecode ∧ decodeTableWord 8 0x20 = some .sessionEnd ∧
  decodeTableWord 8 0x4E = some .tokN ∧ decodeTableWord 16 0x4361 = some (.tokC 0x061#9) ∧
  decodeTableWord 16 0x435A = some (.tokC 0x05A#9) ∧ decodeTableWord 8 0x5A = some .tokZ ∧
  decodeTableWord 8 0x00 = none ∧ decodeTableWord 8 0x04 = none ∧ decodeTableWord 8 0x6E = none

/-! ### Reset and the host's port -/

/-- 10_state.md R48, 70_reset_and_hazards.md R270: the values after reset, at power-on under every configuration and after `rst` in
any state, the streams untouched. -/
def Obligations.ResetGivesTheSpecValues : Prop :=
  (∀ c : Config, ResetValues (State.resetWith c)) ∧
  (∀ s : State, ∃ t, hostAct .rst s = .next t ∧ ResetValues t ∧ t.mem = s.mem ∧ t.cfg = s.cfg)

/-- 10_state.md R36: the fields of STATUS stand at their bits with the numbers the table gives, and the resting states are the six
listed. -/
def Obligations.StatusFieldsStandAtTheirBits : Prop :=
  (∀ t : Status,
    t.word.extractLsb' 0 4 = t.phase.code ∧ t.word.extractLsb' 4 2 = t.mode.code ∧
    t.word.extractLsb' 6 4 = t.err.code ∧ t.word.getLsbD 10 = t.perrIllegal ∧
    t.word.getLsbD 11 = t.perrBadState ∧ t.word.extractLsb' 12 4 = t.last.code) ∧
  (∀ p : Phase, p.resting = true ↔
    p = .idle ∨ p = .treeBuilt ∨ p = .exporting ∨ p = .ready ∨ p = .done ∨ p = .rejected) ∧
  [Phase.idle, .countingFrequencies, .treeBuilt, .exporting, .packing, .parsingTree, .ready, .decoding, .done,
    .rejected].map Phase.code = [0#4, 1#4, 2#4, 3#4, 4#4, 5#4, 6#4, 7#4, 8#4, 9#4] ∧
  [Mode.none, .encoder, .decoder].map Mode.code = [0#2, 1#2, 2#2] ∧
  [Result.ok, .emptyInput, .notCompressible, .malformedTree, .truncatedStream, .illegalCommand, .badState, .counterOverflow,
    .noCode, .capacityExceeded].map Result.code = [0#4, 1#4, 2#4, 3#4, 4#4, 5#4, 6#4, 7#4, 8#4, 9#4]

/-- 10_state.md R34: what each register number reads and what a write to it does, that a read changes nothing of the block, that
the registers fit their widths, and their reset values. -/
def Obligations.RegisterMap : Prop :=
  (∀ s : State,
    regRead 0 s = 0 ∧ regRead 1 s = s.status.word.toNat ∧ regRead 2 s = s.ctrl.toNat ∧ regRead 3 s = s.inCount ∧
    regRead 4 s = s.hdrBytes.toNat ∧ regRead 5 s = s.payloadBits ∧ regRead 6 s = s.nodes.length ∧
    regRead 7 s = s.sentCount.toNat ∧ ∀ n, 7 < n → regRead n s = 0) ∧
  (∀ (s : State) (n : Nat) (v : Byte), n ≠ 0 → n ≠ 2 → hostAct (.regWrite n v) s = .next s) ∧
  (∀ (s : State) (n : Nat), hostAct (.regRead n) s = .next { s with seen := s.seen ++ [.rdata n (regRead n s)] }) ∧
  (∀ s : State, Inv s → regRead 3 s < 2 ^ s.cfg.FW ∧ regRead 5 s < 2 ^ (s.cfg.FW + 8) ∧ regRead 6 s < 2 ^ 10) ∧
  (∀ (c : Config) (n : Nat), regRead n (State.resetWith c) = if n = 2 then 1 else 0) ∧
  (∀ (s : State) (v : Byte), hostAct (.regWrite 0 v) s = command v s ∧ hostAct (.regWrite 2 v) s = .next (s.writeCtrl v))

/-- 10_state.md R39: CTRL takes bit 0 of a write; bits 7:1 read 0 and a write to them is ignored; nothing else changes; no
command changes CTRL. -/
def Obligations.CtrlKeepsOnlyGateEn : Prop :=
  (∀ (s : State) (v : Byte), ∃ t, hostAct (.regWrite 2 v) s = .next t ∧ t = { s with ctrl := t.ctrl } ∧
    regRead 2 t = v.toNat % 2 ∧ t.gateEn = v.getLsbD 0) ∧
  (∀ (i : Instr) (s t : State), exec i s = .next t → t.ctrl = s.ctrl)

/-- 10_state.md R35 and the model's log 6: a write of an assigned opcode to CMD runs that command at the state, to its end, and delivers its result;
CMD stores nothing and reads 0. -/
def Obligations.StepRunsTheCommandWritten : Prop :=
  ∀ (s : State) (v : Byte) (rest : List HostAction) (i : Instr),
    s.status.phase.resting = true → s.script = .regWrite 0 v :: rest → decodeCommand v = .ok i →
    step s =
      (match exec i { s with script := rest } with
      | .next t => .next { t with seen := t.seen ++ [.rsp t.status.last] }
      | .fault f => .fault f
      | .refused r => .refused r) ∧
    regRead 0 s = 0

/-- 42_tree_codec.md R153 and the model's log 12: with a parse in progress a step runs the token at the cursor of IN, past
which the cursor has moved, and ends DEC_BUILD where the outermost `parse` has returned or an error was raised. -/
def Obligations.StepRunsTheTokenFetched : Prop :=
  ∀ (s : State) (i : Instr) (rest : List Byte),
    s.status.phase = .parsingTree → decodeToken s.input = .ok (i, rest) →
    step s =
      match exec i { s with mem := { s.mem with pos := s.mem.pos + (encode i).length } } with
      | .next t =>
        if t.status.phase = .parsingTree then
          if t.pend = [] then
            match (decFinish t).outcome with
            | .next u => .next { u with seen := u.seen ++ [.rsp u.status.last] }
            | .fault f => .fault f
            | .refused r => .refused r
          else .next t
        else .next { t with seen := t.seen ++ [.rsp t.status.last] }
      | .fault f => .fault f
      | .refused r => .refused r

/-- 20_memory.md R67: the four stream actions; no command moves the cursor backwards or changes the bytes of IN; reset and
SESSION_END touch neither stream; and, the model's log 6, a step of a resting block takes the host's next action or, with none,
keeps all state. -/
def Obligations.HostStreamActions : Prop :=
  (∀ (s : State) (bytes : List Byte),
    hostAct (.attachIn bytes) s = .next { s with mem := ⟨bytes, 0, s.mem.out⟩ } ∧
    hostAct .rewind s = .next { s with mem := ⟨s.mem.data, 0, s.mem.out⟩ } ∧
    hostAct .attachOut s = .next { s with mem := ⟨s.mem.data, s.mem.pos, []⟩ } ∧
    hostAct .takeOut s = .next { s with seen := s.seen ++ [.taken s.mem.out] }) ∧
  (∀ (i : Instr) (s t : State), s.mem.wf = true → exec i s = .next t →
    t.mem.data = s.mem.data ∧ s.mem.pos ≤ t.mem.pos ∧ t.mem.wf = true) ∧
  (∀ s t : State, exec .sessionEnd s = .next t ∨ hostAct .rst s = .next t → t.mem = s.mem) ∧
  (∀ s : State, s.status.phase.resting = true →
    (∀ a rest, s.script = a :: rest → step s = hostAct a { s with script := rest }) ∧ (s.script = [] → step s = .next s))

/-- 70_reset_and_hazards.md R272: reset during a command is reset after a prefix of the command's accesses to the streams, all
of which together lead to the command's end, and no result is reported. The model's own, log 8 (DEDUCED from R272 with 20_memory.md
R73 and R78): the list of accesses, one byte each also within a payload word of IN, in the order of the pseudocode, and so the
clause on `commandAccesses` and the clause that DEC_DECODE has written nothing before it has read anything. It holds for every
value of the free value drawn (log 2, log 8). -/
def Obligations.ResetCutsACommandOff : Prop :=
  ∀ (s : State) (v : Byte), Inv s →
    ∃ u t, issue v s = .next u ∧ hostAct (.rstDuring v) s = .next t ∧ ResetValues t ∧
      t.mem.data = s.mem.data ∧ s.mem.pos ≤ t.mem.pos ∧ t.mem.pos ≤ u.mem.pos ∧
      s.mem.out <+: t.mem.out ∧ t.mem.out <+: u.mem.out ∧ t.seen = s.seen ∧ t.script = s.script ∧ t.cfg = s.cfg ∧
      (∃ done left, commandAccesses v s u = done ++ left ∧ t.mem = s.mem.perform done ∧ u.mem = t.mem.perform left) ∧
      (decodeCommand v = .ok .decDecode → t.mem.pos = s.mem.pos → t.mem.out = s.mem.out)

/-! ### Refusals, failures, STATUS -/

/-- 46_session_commands.md R226: an unassigned opcode changes LAST and PERR_ILLEGAL and nothing else of the block. -/
def Obligations.UnassignedOpcodeIsRefused : Prop :=
  ∀ (s : State) (v : Byte), s.status.phase.resting = true → (∀ i, decodeCommand v ≠ .ok i) →
    hostAct (.regWrite 0 v) s = .next { s with
      status := { s.status with last := .illegalCommand, perrIllegal := true }
      seen := s.seen ++ [.rsp .illegalCommand] }

/-- 46_session_commands.md R227: a command in a state that does not admit it changes LAST and PERR_BADSTATE and nothing else;
an admitted command never ends in BadState. -/
def Obligations.CommandInWrongStateIsRefused : Prop :=
  ∀ (i : Instr) (s : State), i.isToken = false → s.status.phase.resting = true →
    (¬ admits i s.status.phase →
      exec i s = .next { s with status := { s.status with last := .badState, perrBadState := true } }) ∧
    (admits i s.status.phase → ∀ t, exec i s = .next t → t.status.last ≠ .badState)

/-- 60_exceptions.md R246: whichever command raises a session-fatal error, STATE is Rejected, ERR and LAST hold its code, MODE
is the machine's that failed, the PERR bits and CTRL are as they were, and the code is the result delivered; a refusal is no
entry: only LAST and a PERR bit change. -/
def Obligations.RaiseEntersRejected : Prop :=
  ∀ (i : Instr) (s t : State), Inv s → i.isToken = false → exec i s = .next t →
    (t.status.last.fatal = true →
      t.status = { s.status with
        phase := .rejected
        err := t.status.last
        last := t.status.last
        mode := if i = .encBuild then .encoder else if i = .decBuild then .decoder else s.status.mode } ∧
      t.ctrl = s.ctrl ∧ t.script = s.script ∧ t.seen = s.seen ∧
      ∀ v, decodeCommand v = .ok i → command v s = .next { t with seen := s.seen ++ [.rsp t.status.last] }) ∧
    (t.status.last = .badState → t = { s with status := { s.status with last := .badState, perrBadState := true } }) ∧
    t.status.last ≠ .illegalCommand

/-- 10_state.md R38: ERR is written exactly by a session-fatal error and is sticky, the PERR bits are set by refusals and are
sticky, only SESSION_END and reset clear them, and ERR ≠ 0 exactly in Rejected. LAST is every command's own result: BadState where
STATE does not admit it, OK where it ends without a failure, a session-fatal code where it ends in Rejected, IllegalCommand for
an unassigned opcode, OK for SESSION_END. -/
def Obligations.ErrPerrAndLast : Prop :=
  ∀ s : State, Inv s →
    (∀ (i : Instr) (t : State), i.isToken = false → i ≠ .sessionEnd → exec i s = .next t →
      (t.status.last.fatal = true → t.status.err = t.status.last) ∧
      (t.status.last.fatal = false → t.status.err = s.status.err) ∧
      (s.status.err ≠ .ok → t.status.err = s.status.err) ∧
      (t.status.err ≠ .ok ↔ t.status.phase = .rejected) ∧
      (¬ admits i s.status.phase → t.status.last = .badState) ∧
      (admits i s.status.phase → t.status.phase ≠ .rejected → t.status.last = .ok) ∧
      (admits i s.status.phase → t.status.phase = .rejected → t.status.last.fatal = true) ∧
      t.status.perrIllegal = s.status.perrIllegal ∧
      (t.status.perrBadState = true ↔ s.status.perrBadState = true ∨ t.status.last = .badState)) ∧
    (∀ v : Byte, (∀ i, decodeCommand v ≠ .ok i) → ∃ t, issue v s = .next t ∧ t.status.err = s.status.err ∧
      t.status.perrIllegal = true ∧ t.status.perrBadState = s.status.perrBadState ∧ t.status.last = .illegalCommand) ∧
    (∃ t, exec .sessionEnd s = .next t ∧ t.status.word = 0x0000#16) ∧
    (∃ t, hostAct .rst s = .next t ∧ t.status.word = 0x0000#16) ∧
    (∀ (a : HostAction) (t : State), (∀ v, a ≠ .regWrite 0 v) → a ≠ .rst → (∀ v, a ≠ .rstDuring v) → hostAct a s = .next t →
      t.status = s.status)

/-- 10_state.md R45: where each command starts and ends, for every command and every state between commands. -/
def Obligations.CommandTransitions : Prop :=
  ∀ s : State, Inv s →
    (s.status.phase = .idle → ∃ t, exec .encBuild s = .next t ∧ t.status.mode = .encoder ∧
      (t.status.phase = .treeBuilt ∧ t.status.last = .ok ∨
       t.status.phase = .rejected ∧
        (t.status.last = .emptyInput ∨ t.status.last = .counterOverflow ∨ t.status.last = .notCompressible))) ∧
    (s.status.phase = .treeBuilt → ∃ t, exec .encExport s = .next t ∧ t.status.phase = .exporting ∧ t.status.last = .ok) ∧
    (s.status.phase = .exporting → ∃ t, exec .encEncode s = .next t ∧
      (t.status.phase = .done ∧ t.status.last = .ok ∨ t.status.phase = .rejected ∧ t.status.last = .noCode)) ∧
    (s.status.phase = .idle → ∃ t, exec .decBuild s = .next t ∧ t.status.mode = .decoder ∧
      (t.status.phase = .ready ∧ t.status.last = .ok ∨
       t.status.phase = .rejected ∧ (t.status.last = .malformedTree ∨ t.status.last = .capacityExceeded))) ∧
    (s.status.phase = .ready → ∃ t, exec .decDecode s = .next t ∧
      (t.status.phase = .done ∧ t.status.last = .ok ∨ t.status.phase = .rejected ∧ t.status.last = .truncatedStream)) ∧
    (∃ t, exec .sessionEnd s = .next t ∧ t.status.phase = .idle ∧ t.status.mode = .none ∧ t.status.last = .ok) ∧
    (∀ i : Instr, i.isToken = false → ¬ admits i s.status.phase → ∃ t, exec i s = .next t ∧
      t.status.phase = s.status.phase ∧ t.status.last = .badState) ∧
    (∀ v : Byte, (∀ i, decodeCommand v ≠ .ok i) → ∃ t, issue v s = .next t ∧
      t.status.phase = s.status.phase ∧ t.status.last = .illegalCommand)

/-! ### Whole-machine rules -/

/-- The invariant holds at reset, under every configuration. -/
def Obligations.InvariantHoldsAtReset : Prop := ∀ c : Config, Inv (State.resetWith c)

/-- Every step keeps the invariant, from every state that meets it. -/
def Obligations.StepKeepsTheInvariant : Prop := ∀ s t : State, Inv s → step s = .next t → Inv t

/-- From every state that meets the invariant a step goes on: the model's faults and its refusal are never met
(20_memory.md R76: "no rule reads an entry that does not exist"). -/
def Obligations.StepNeverStops : Prop := ∀ s : State, Inv s → SafeStep s

/-- 20_memory.md R70 and 00_scope.md R6: no step changes the parameters, from any state. -/
def Obligations.ParametersAreFixed : Prop := ∀ s t : State, step s = .next t → t.cfg = s.cfg

/-- 10_state.md R26: while a tree is held, no command but SESSION_END modifies it. -/
def Obligations.TreeIsNotModifiedWhileHeld : Prop :=
  ∀ (i : Instr) (s t : State), s.status.phase.holdsTree = true → i ≠ .sessionEnd → exec i s = .next t →
    t.nodes = s.nodes ∧ t.root = s.root ∧ t.leafOf = s.leafOf

/-- 20_memory.md R64, 60_exceptions.md R252, 45_decoder_commands.md R214: OUT only grows, whatever a command ends with, and the
builds, SESSION_END and the header tokens write nothing to it. -/
def Obligations.OutOnlyGrows : Prop :=
  ∀ (i : Instr) (s t : State), exec i s = .next t →
    s.mem.out <+: t.mem.out ∧ (i ≠ .encExport → i ≠ .encEncode → i ≠ .decDecode → t.mem.out = s.mem.out)

/-! ### Payload words -/

/-- 20_memory.md R70: the bytes of a word under each order, that reading inverts writing, and that the orders coincide for
W = 8, the default, and that no step switches the order. -/
def Obligations.WordBytesFollowByteOrder : Prop :=
  (∀ (c : Config) (w : Nat), w < 2 ^ c.W →
    (wordBytes c w).length = c.WB ∧
    (c.order = .BE → ∀ k, k < c.WB → (wordBytes c w)[k]? = some (BitVec.ofNat 8 (w >>> (c.W - 8 - 8 * k)))) ∧
    (c.order = .LE → ∀ k, k < c.WB → (wordBytes c w)[k]? = some (BitVec.ofNat 8 (w >>> (8 * k)))) ∧
    bytesWord c (wordBytes c w) = w) ∧
  (∀ (c : Config) (bytes : List Byte), bytes.length = c.WB →
    bytesWord c bytes < 2 ^ c.W ∧ wordBytes c (bytesWord c bytes) = bytes) ∧
  (∀ (c d : Config) (w : Nat), c.W = 8 → d.W = 8 → wordBytes c w = wordBytes d w) ∧
  Config.standard.order = .BE ∧
  (∀ s t : State, step s = .next t → t.cfg.order = s.cfg.order)

/-! ### ENC_BUILD -/

/-- 60_exceptions.md R242, 40_tree_builder.md R129: with nothing to read, EmptyInput; no tree, and nothing else changes. -/
def Obligations.EmptyInputIsRejected : Prop :=
  ∀ s : State, Inv s → s.status.phase = .idle → s.input = [] →
    exec .encBuild s = .next { s with status := { s.status with mode := .encoder }.failed .emptyInput }

/-- 60_exceptions.md R248: the byte that would pass 2^FW − 2 raises CounterOverflow before it is counted; it has been read. -/
def Obligations.CounterOverflowIsRaised : Prop :=
  ∀ s : State, Inv s → s.status.phase = .idle → s.cfg.maxCount < s.input.length →
    ∃ t, exec .encBuild s = .next t ∧
      (∀ b : Byte, t.freqOf (byteSymbol b) = (s.input.take s.cfg.maxCount).count b) ∧
      t = { s with
        freq := t.freq
        inCount := s.cfg.maxCount
        mem := { s.mem with pos := s.mem.pos + s.cfg.maxCount + 1 }
        status := { s.status with mode := .encoder }.failed .counterOverflow }

/-- 44_encoder_commands.md R191, 40_tree_builder.md R127, 41_code_assigner.md R142: ENC_BUILD on a non-empty input that the
counters can hold: the tally, the tree over exactly the symbols that occur, the totals, the verdict, and nothing else changed. -/
def Obligations.EncBuildBuildsTheTree : Prop :=
  ∀ s : State, Inv s → s.status.phase = .idle → s.input ≠ [] → s.input.length ≤ s.cfg.maxCount →
    ∃ t T, exec .encBuild s = .next t ∧ t.tree? = some T ∧
      (∀ b : Byte, t.freqOf (byteSymbol b) = s.input.count b) ∧
      (∀ symbol : Symbol, T.symbols.count symbol = if 0 < occurrences s.input symbol then 1 else 0) ∧
      (∀ symbol : Fin 257, (t.leafIndex symbol).isSome = true ↔ 0 < t.freqOf symbol) ∧ t.leavesOk ∧
      t.nodeN = 2 * T.symbols.length - 1 ∧ t.root.toNat = 2 * T.symbols.length - 2 ∧
      t.hdrBytes.toNat = 3 * T.symbols.length - 2 ∧ t.hdrBytes.toNat = T.header.length ∧
      t.payloadBits = T.cost (occurrences s.input) ∧
      t = { s with
        freq := t.freq, nodes := t.nodes, root := t.root, leafOf := t.leafOf
        inCount := s.input.length, hdrBytes := t.hdrBytes, payloadBits := t.payloadBits
        mem := { s.mem with pos := s.mem.data.length }
        status :=
          if s.gateEn = true ∧ 8 * s.input.length ≤ 8 * t.hdrBytes.toNat + s.cfg.W * wordCount s.cfg.W t.payloadBits
          then { s.status with mode := .encoder }.failed .notCompressible
          else { s.status with mode := .encoder }.passed .treeBuilt }

/-- 44_encoder_commands.md R192: NotCompressible is raised if and only if the gate is on and the encoded size is not smaller;
with the gate off every non-empty input builds. -/
def Obligations.GateRejectsExactlyTheIncompressible : Prop :=
  ∀ s : State, Inv s → s.status.phase = .idle → s.input ≠ [] → s.input.length ≤ s.cfg.maxCount →
    ∃ t, exec .encBuild s = .next t ∧
      (t.status.last = .notCompressible ↔
        s.ctrl.getLsbD 0 = true ∧
        8 * t.inCount ≤ 8 * t.hdrBytes.toNat + s.cfg.W * wordCount s.cfg.W t.payloadBits) ∧
      (s.ctrl.getLsbD 0 = false → t.status.last = .ok ∧ t.status.phase = .treeBuilt)

/-- 40_tree_builder.md R124: TB.INIT makes one leaf for each symbol of non-zero frequency, in ascending order of symbol. -/
def Obligations.InitMakesTheLeavesInOrder : Prop :=
  ∀ s : State, s.nodes = [] →
    let present := (List.finRange 257).filter fun symbol => decide (0 < s.freqOf symbol)
    let t := tbInit s
    (∃ others, present = others ++ [sentinelSymbol]) ∧
    t.nodes.map (fun n => (n.kind, n.freq)) = present.map (fun symbol => (NodeKind.leaf (BitVec.ofNat 9 symbol.val), s.freqOf symbol)) ∧
    t.q = (List.range present.length).map (BitVec.ofNat 10) ∧
    (∀ symbol, t.leafIndex symbol = if 0 < s.freqOf symbol then some (BitVec.ofNat 10 (present.idxOf symbol)) else none) ∧
    t = { s with nodes := t.nodes, q := t.q, leafOf := t.leafOf }

/-- 40_tree_builder.md R125: remove_min takes the element of least (frequency, index) out of Q. -/
def Obligations.RemoveMinTakesTheLeastKey : Prop :=
  ∀ s : State, s.q ≠ [] → s.q.Nodup → (∀ j ∈ s.q, j.toNat < s.nodes.length) →
    ∃ m, removeMin s = .go m { s with q := s.q.erase m } ∧ m ∈ s.q ∧
      ∀ j ∈ s.q, ∀ nm nj, s.node? m = some nm → s.node? j = some nj →
        nm.freq < nj.freq ∨ nm.freq = nj.freq ∧ m.toNat ≤ j.toNat

/-- 40_tree_builder.md R126: TB.MERGE makes the two least elements of Q the left and the right child of a new node whose
frequency is their sum, and puts that node into Q. -/
def Obligations.MergeJoinsTheTwoLeast : Prop :=
  ∀ s : State, 2 ≤ s.q.length → s.q.Nodup → (∀ j ∈ s.q, j.toNat < s.nodes.length) →
    ∃ a b na nb, a ∈ s.q ∧ b ∈ s.q.erase a ∧ s.node? a = some na ∧ s.node? b = some nb ∧
      (∀ j ∈ s.q, ∀ nj, s.node? j = some nj → na.freq < nj.freq ∨ na.freq = nj.freq ∧ a.toNat ≤ j.toNat) ∧
      (∀ j ∈ s.q.erase a, ∀ nj, s.node? j = some nj → nb.freq < nj.freq ∨ nb.freq = nj.freq ∧ b.toNat ≤ j.toNat) ∧
      na.freq ≤ nb.freq ∧
      ∃ t n, tbMerge s = .go () t ∧ n.kind = .internal (some a) (some b) ∧ n.freq = na.freq + nb.freq ∧
        t = { s with nodes := s.nodes ++ [n], q := (s.q.erase a).erase b ++ [BitVec.ofNat 10 s.nodes.length] }

/-- 40_tree_builder.md R130: the five properties of a built tree. -/
def Obligations.BuiltTreeProperties : Prop :=
  ∀ s t : State, Inv s → s.status.phase = .idle → s.input ≠ [] → s.input.length ≤ s.cfg.maxCount →
    exec .encBuild s = .next t →
    (∀ n ∈ t.nodes, n.isLeaf = false → ∃ l r nl nr, n.kind = .internal (some l) (some r) ∧
      t.node? l = some nl ∧ t.node? r = some nr ∧ n.freq = nl.freq + nr.freq) ∧
    (∃ n, t.node? t.root = some n ∧ n.freq = t.inCount + 1) ∧
    (∀ symbol : Fin 257,
      (t.nodes.filter fun n => decide (n.kind = .leaf (BitVec.ofNat 9 symbol.val))).length =
        if 0 < t.freqOf symbol then 1 else 0) ∧
    ((∀ (k : Nat) (n : Node) (l r : Index), t.nodes[k]? = some n → n.kind = .internal (some l) (some r) →
      l.toNat < k ∧ r.toNat < k) ∧ t.root.toNat + 1 = t.nodeN) ∧
    (∀ s' t' : State, Inv s' → s'.status.phase = .idle → s'.input.Perm s.input → s'.input.length ≤ s'.cfg.maxCount →
      exec .encBuild s' = .next t' → t'.nodes = t.nodes ∧ t'.root = t.root ∧ t'.leafOf = t.leafOf)

/-- 40_tree_builder.md R128: with one distinct byte value the tree has exactly two leaves, each with a 1-bit code; the order of
the two follows the tie-break; and the root of every built tree is Internal. -/
def Obligations.OneByteValueGivesTwoLeaves : Prop :=
  (∀ (s : State) (x : Byte) (n : Nat), Inv s → s.status.phase = .idle → s.input = List.replicate (n + 1) x →
    n + 1 ≤ s.cfg.maxCount →
    ∃ t, exec .encBuild s = .next t ∧ t.root = 2#10 ∧
      t.nodes =
        if n = 0 then
          [⟨.leaf (x.setWidth 9), 1, 1#9, 0#256⟩, ⟨.leaf 256#9, 1, 1#9, 1#256⟩,
           ⟨.internal (some 0#10) (some 1#10), 2, 0#9, 0#256⟩]
        else
          [⟨.leaf (x.setWidth 9), n + 1, 1#9, 1#256⟩, ⟨.leaf 256#9, 1, 1#9, 0#256⟩,
           ⟨.internal (some 1#10) (some 0#10), n + 2, 0#9, 0#256⟩]) ∧
  (∀ s t : State, Inv s → s.status.phase = .idle → s.input ≠ [] → s.input.length ≤ s.cfg.maxCount →
    exec .encBuild s = .next t → ∃ n l r, t.node? t.root = some n ∧ n.kind = .internal (some l) (some r))

/-- 40_tree_builder.md R131: the built tree minimises the weighted path length among all trees over the same leaves, and
PAYLOAD_BITS is that minimum. -/
def Obligations.BuiltTreeIsOptimal : Prop :=
  ∀ (s t : State) (T : Tree), Inv s → s.status.phase = .idle → s.input ≠ [] → s.input.length ≤ s.cfg.maxCount →
    exec .encBuild s = .next t → t.tree? = some T →
    t.payloadBits = T.cost (occurrences s.input) ∧
    ∀ T' : Tree, T'.symbols.Perm T.symbols → T.cost (occurrences s.input) ≤ T'.cost (occurrences s.input)

/-! ### Codes -/

/-- 10_state.md R25: after either build every node's `code_len` and `code_val` are the length and the bits of its path from
the root. -/
def Obligations.CodesArePaths : Prop :=
  ∀ (i : Instr) (s t : State), Inv s → i = .encBuild ∨ i = .decBuild → exec i s = .next t → t.status.last = .ok →
    ∀ (path : List Bool) (j : Index), follow t.nodes t.root path = some j →
      ∃ n, t.node? j = some n ∧ n.codeLen.toNat = path.length ∧ n.codeVal.toNat = bitsNat path ∧ n.codeBits = path

/-- 41_code_assigner.md R145: after either build the leaves' codes are prefix-free and pairwise different, none is empty, and
they meet the Kraft equality (both sides times 2^256). -/
def Obligations.CodesArePrefixFreeAndComplete : Prop :=
  ∀ (i : Instr) (s t : State), Inv s → i = .encBuild ∨ i = .decBuild → exec i s = .next t → t.status.last = .ok →
    (∀ (j k : Nat) (m n : Node), j ≠ k → t.nodes[j]? = some m → t.nodes[k]? = some n → m.isLeaf = true → n.isLeaf = true →
      ¬ (m.codeBits <+: n.codeBits) ∧ (m.codeLen, m.codeVal) ≠ (n.codeLen, n.codeVal)) ∧
    (∀ n ∈ t.nodes, n.isLeaf = true → 1 ≤ n.codeLen.toNat) ∧
    ((t.nodes.filter Node.isLeaf).map fun n => 2 ^ (256 - n.codeLen.toNat)).sum = 2 ^ 256

/-! ### ENC_EXPORT and ENC_ENCODE -/

/-- 44_encoder_commands.md R193, 42_tree_codec.md R152: ENC_EXPORT appends the tree's header, exactly HDR_BYTES bytes, and
changes nothing else. -/
def Obligations.EncExportWritesTheHeader : Prop :=
  ∀ s : State, Inv s → s.status.phase = .treeBuilt →
    ∃ T, s.tree? = some T ∧ T.header.length = s.hdrBytes.toNat ∧
      exec .encExport s = .next { s with
        mem := { s.mem with out := s.mem.out ++ T.header }
        status := s.status.passed .exporting }

/-- 43_bit_packer_unpacker.md R175: BP.RESET, any pushes, BP.FLUSH write exactly the words of the codes' bit string. -/
def Obligations.PackerWritesTheBitString : Prop :=
  ∀ (s : State) (codes : List (Nat × BitVec 256)),
    bpFlush (codes.foldl (fun u c => bpPush c.1 c.2 u) (bpReset s)) =
      { s with
        acc := 0
        cnt := 0
        mem := { s.mem with
          out := s.mem.out ++ payloadBytes s.cfg
            (codes.flatMap fun c => (List.range c.1).map fun k => c.2.getLsbD (c.1 - 1 - k)) } }

/-- 44_encoder_commands.md R194: ENC_ENCODE writes the payload of the codes of the bytes it reads, then the sentinel's, and
changes nothing else; the bytes read are those from the cursor on, whatever ENC_BUILD has tallied. -/
def Obligations.EncEncodeWritesThePayload : Prop :=
  ∀ s : State, Inv s → s.status.phase = .exporting →
    (∀ b ∈ s.input, (s.leafIndex (byteSymbol b)).isSome = true) →
    exec .encEncode s = .next { s with
      mem := ⟨s.mem.data, s.mem.data.length,
        s.mem.out ++ payloadBytes s.cfg ((s.input.flatMap fun b => s.codeOf (byteSymbol b)) ++ s.codeOf sentinelSymbol)⟩
      status := s.status.passed .done }

/-- 44_encoder_commands.md R196: a byte with no code raises NoCode; the whole words already filled stay in OUT, the rest of
the accumulator is dropped, and the cursor is just past the byte. -/
def Obligations.ByteWithoutCodeIsRejected : Prop :=
  ∀ (s : State) (before after : List Byte) (b : Byte), Inv s → s.status.phase = .exporting →
    s.input = before ++ b :: after →
    (∀ x ∈ before, (s.leafIndex (byteSymbol x)).isSome = true) → s.leafIndex (byteSymbol b) = none →
    let bits := before.flatMap fun x => s.codeOf (byteSymbol x)
    exec .encEncode s = .next { s with
      mem := ⟨s.mem.data, s.mem.pos + before.length + 1,
        s.mem.out ++ ((payloadWords s.cfg.W bits).take (bits.length / s.cfg.W)).flatMap (wordBytes s.cfg)⟩
      status := s.status.failed .noCode }

/-- 44_encoder_commands.md R197: a whole encode grows OUT by the header and the payload of the input, and with the gate on that is
less than the input. -/
def Obligations.WholeEncodeWritesHeaderAndPayload : Prop :=
  ∀ s s1 : State, Inv s → s.status.phase = .idle → s.mem.pos = 0 → s.mem.data ≠ [] →
    exec .encBuild s = .next s1 → s1.status.last = .ok →
    ∃ s2 s3 T, exec .encExport s1.rewind = .next s2 ∧ exec .encEncode s2 = .next s3 ∧ s3.status.last = .ok ∧
      s1.tree? = some T ∧
      s3.mem.out = s.mem.out ++ T.header ++ payloadBytes s.cfg
        ((s.mem.data.flatMap fun b => s1.codeOf (byteSymbol b)) ++ s1.codeOf sentinelSymbol) ∧
      s3.mem.out.length =
        s.mem.out.length + s1.hdrBytes.toNat + s.cfg.WB * wordCount s.cfg.W s1.payloadBits ∧
      (s.gateEn = true → s3.mem.out.length < s.mem.out.length + s.mem.data.length)

/-! ### DEC_BUILD -/

/-- 42_tree_codec.md R161, R153, 45_decoder_commands.md R211: DEC_BUILD on the header of an acceptable tree takes exactly that tree in,
in pre-order from index 0, with frequencies 0, and changes nothing the rules do not name. -/
def Obligations.DecBuildImportsTheHeader : Prop :=
  ∀ (s : State) (T : Tree) (more : List Byte), Inv s → s.status.phase = .idle → T.acceptable = true →
    s.input = T.header ++ more →
    ∃ t, exec .decBuild s = .next t ∧ t.tree? = some T ∧ t.nodeN = T.size ∧ (∀ n ∈ t.nodes, n.freq = 0) ∧
      t = { s with
        nodes := t.nodes
        root := 0#10
        sentCount := 1#9
        hdrBytes := BitVec.ofNat 10 T.header.length
        mem := { s.mem with pos := s.mem.pos + T.header.length }
        status := { s.status with mode := .decoder }.passed .ready }

/-- 42_tree_codec.md R155, R156: a complete header whose number of sentinel leaves is not one, or whose root is a leaf, is
MalformedTree; the whole header has been read, and NODE_N and SENT_COUNT hold what was reached. -/
def Obligations.WrongSentinelCountIsMalformed : Prop :=
  ∀ (s : State) (T : Tree) (more : List Byte), Inv s → s.status.phase = .idle →
    T.symbolsOk = true → T.size ≤ nodeCap → T.sentinels ≠ 1 ∨ T.isNode = false → s.input = T.header ++ more →
    ∃ t, exec .decBuild s = .next t ∧ t.nodeN = T.size ∧
      t = { s with
        nodes := t.nodes
        root := t.root
        sentCount := BitVec.ofNat 9 T.sentinels
        mem := { s.mem with pos := s.mem.pos + T.header.length }
        status := { s.status with mode := .decoder }.failed .malformedTree }

/-- 42_tree_codec.md R157: a header whose tree needs more than 513 nodes fails at the token that would allocate the 514th, whose
bytes have been consumed. -/
def Obligations.HeaderBeyondTheArenaIsRejected : Prop :=
  ∀ (s : State) (T : Tree) (more : List Byte), Inv s → s.status.phase = .idle →
    T.symbolsOk = true → nodeCap < T.size → s.input = T.header ++ more →
    ∃ t, exec .decBuild s = .next t ∧ t.nodeN = nodeCap ∧
      t = { s with
        nodes := t.nodes
        sentCount := t.sentCount
        mem := { s.mem with pos := s.mem.pos + ((T.tokens.take (nodeCap + 1)).flatten).length }
        status := { s.status with mode := .decoder }.failed .capacityExceeded }

/-- 42_tree_codec.md R154, R155, 45_decoder_commands.md R211: DEC_BUILD ends in Ready exactly when IN starts with the header of an
acceptable tree, and that tree is then the one held; else it ends in Rejected with HDR_BYTES 0. OUT is never written. -/
def Obligations.DecBuildAcceptsExactlyHeaders : Prop :=
  ∀ s : State, Inv s → s.status.phase = .idle →
    ∃ t, exec .decBuild s = .next t ∧
      t = { s with
        nodes := t.nodes, root := t.root, sentCount := t.sentCount, hdrBytes := t.hdrBytes
        mem := { s.mem with pos := t.mem.pos }, status := t.status } ∧
      ((∃ T : Tree, T.acceptable = true ∧ T.header <+: s.input ∧ t.tree? = some T ∧
          t.status = { s.status with mode := .decoder }.passed .ready) ∨
       ((¬ ∃ T : Tree, T.acceptable = true ∧ T.header <+: s.input) ∧ t.hdrBytes = 0#10 ∧
          (t.status = { s.status with mode := .decoder }.failed .malformedTree ∨
           t.status = { s.status with mode := .decoder }.failed .capacityExceeded)))

/-- 42_tree_codec.md R153: the token-by-token parse is the recursive parse the spec writes, on every byte sequence, with every
failure and the state it leaves. -/
def Obligations.TokenLoopIsTheRecursiveParse : Prop :=
  ∀ s : State, s.nodes = [] → s.pend = [] → tcImport s = importRec s

/-- 10_state.md R41, R44: after a build HDR_BYTES is 0 or in 4..769 and SENT_COUNT is at most 257. -/
def Obligations.BuildRegistersStayInRange : Prop :=
  ∀ (i : Instr) (s t : State), Inv s → s.status.phase = .idle → i = .encBuild ∨ i = .decBuild → exec i s = .next t →
    (t.hdrBytes = 0#10 ∨ 4 ≤ t.hdrBytes.toNat ∧ t.hdrBytes.toNat ≤ 769) ∧ t.sentCount.toNat ≤ 257

/-- 70_reset_and_hazards.md R286: on every byte sequence DEC_BUILD ends in Ready or Rejected after reading at most 771 bytes, and
DEC_DECODE ends in Done or Rejected after reading at most the rest of the stream, with no arena index out of range. -/
def Obligations.DecoderIsTotalOnUntrustedInput : Prop :=
  ∀ s : State, Inv s →
    (s.status.phase = .idle → ∃ t, exec .decBuild s = .next t ∧
      (t.status.phase = .ready ∨ t.status.phase = .rejected) ∧ t.mem.pos ≤ s.mem.pos + 771) ∧
    (s.status.phase = .ready → ∃ t, exec .decDecode s = .next t ∧
      (t.status.phase = .done ∨ t.status.phase = .rejected) ∧ t.mem.pos ≤ s.mem.data.length)

/-- 42_tree_codec.md R160: importing an exported header gives a tree of the same shape, symbols and codes, having read exactly
HDR_BYTES bytes; and exporting any imported tree gives the bytes it was imported from. -/
def Obligations.HeaderRoundTrip : Prop :=
  (∀ (s s1 s2 d : State) (more : List Byte), Inv s → s.status.phase = .idle → exec .encBuild s = .next s1 →
    s1.status.last = .ok → exec .encExport s1 = .next s2 → Inv d → d.status.phase = .idle →
    d.input = s2.mem.out.drop s1.mem.out.length ++ more →
    ∃ t T, exec .decBuild d = .next t ∧ t.status.last = .ok ∧ t.status.phase = .ready ∧
      s1.tree? = some T ∧ t.tree? = some T ∧
      t.hdrBytes = s1.hdrBytes ∧ t.mem.pos = d.mem.pos + s1.hdrBytes.toNat ∧
      (∀ (path : List Bool) (i j : Index), follow s1.nodes s1.root path = some i → follow t.nodes t.root path = some j →
        ∃ m n, s1.node? i = some m ∧ t.node? j = some n ∧ m.codeLen = n.codeLen ∧ m.codeVal = n.codeVal) ∧
      tcExport t = .go () { t with mem := { t.mem with out := t.mem.out ++ s2.mem.out.drop s1.mem.out.length } }) ∧
  (∀ (d : State) (T : Tree) (more : List Byte), Inv d → d.status.phase = .idle → T.acceptable = true →
    d.input = T.header ++ more →
    ∃ t, exec .decBuild d = .next t ∧ tcExport t = .go () { t with mem := { t.mem with out := t.mem.out ++ T.header } })

/-! ### The header tokens -/

/-- 42_tree_codec.md R153: token N allocates an Internal node at the place parsed next, and its left sub-tree is due. -/
def Obligations.TokenNOpensANode : Prop :=
  ∀ s : State, s.status.phase = .parsingTree → s.nodeN ≠ nodeCap →
    exec .tokN s = .next { s with
      nodes := s.nodes ++ [⟨.internal none none, 0, BitVec.ofNat 9 (nextPlace s.pend).1, BitVec.ofNat 256 (nextPlace s.pend).2⟩]
      pend := ⟨BitVec.ofNat 10 s.nodes.length, (nextPlace s.pend).1, (nextPlace s.pend).2, .left⟩ :: s.pend } ∧
    nextPlace [] = (0, 0) ∧
    (∀ (i : Index) (len val : Nat) (fs : List Frame),
      nextPlace (⟨i, len, val, .left⟩ :: fs) = (len + 1, 2 * val) ∧
      nextPlace (⟨i, len, val, .right⟩ :: fs) = (len + 1, 2 * val + 1))

/-- 42_tree_codec.md R153: with room in the arena, tokens C and Z complete: they allocate a leaf at the place parsed next and
return its index to the waiting activations. Those that wait for their right child, up to the first that waits for its left, are
finished: each is given the index returned by the one inside it as its right child, and returns its own node's index. The first
that waits for its left child is given the index returned to it and its right branch is due. Where there is none, the index
returned is ROOT and the parse is over. Z counts a sentinel. And no token breaks the premise that every waiting activation names
an Internal entry. -/
def Obligations.LeafTokensCloseABranch : Prop :=
  (∀ (i : Instr) (symbol : Symbol) (s : State), i = .tokC symbol ∨ i = .tokZ ∧ symbol = 256#9 →
    s.status.phase = .parsingTree → s.nodeN < nodeCap → FramesOk s →
    let leaf : Node := ⟨.leaf symbol, 0, BitVec.ofNat 9 (nextPlace s.pend).1, BitVec.ofNat 256 (nextPlace s.pend).2⟩
    let new : Index := BitVec.ofNat 10 s.nodes.length
    let sent := if i = .tokZ then s.sentCount + 1#9 else s.sentCount
    (∃ t, exec i s = .next t ∧ t.nodes.length = s.nodes.length + 1 ∧ t.nodes[s.nodes.length]? = some leaf ∧
      (∀ (k : Nat) (n : Node), s.nodes[k]? = some n → ∃ m, t.nodes[k]? = some m ∧ m.freq = n.freq ∧
        m.codeLen = n.codeLen ∧ m.codeVal = n.codeVal ∧ m.isLeaf = n.isLeaf ∧
        ((∀ f ∈ s.pend, f.node.toNat ≠ k) → m = n)) ∧
      t = { s with nodes := t.nodes, root := t.root, pend := resume s.pend, sentCount := sent }) ∧
    (∀ finished waiting : List Frame, s.pend = finished ++ waiting → (∀ f ∈ finished, f.side = .right) →
      (∀ f ∈ waiting.head?, f.side = .left) →
      let returned := new :: finished.map (·.node)
      exec i s = .next { s with
        nodes := ((finished ++ waiting.take 1).zip returned).foldl (fun ns p => putChild ns p.1 p.2) (s.nodes ++ [leaf])
        root := if waiting = [] then returned.getLastD new else s.root
        pend := (waiting.take 1).map (fun f => { f with side := .right }) ++ waiting.drop 1
        sentCount := sent }) ∧
    (s.pend = [] → exec i s = .next { s with nodes := s.nodes ++ [leaf], root := new, sentCount := sent }) ∧
    (∀ (j : Index) (len val : Nat) (fs : List Frame) (n : Node) (l r : Option Index),
      s.pend = ⟨j, len, val, .left⟩ :: fs → s.node? j = some n → n.kind = .internal l r →
      exec i s = .next { s with
        nodes := (s.nodes.set j.toNat { n with kind := .internal (some new) r }) ++ [leaf]
        pend := ⟨j, len, val, .right⟩ :: fs
        sentCount := sent }) ∧
    (∀ (j : Index) (len val : Nat) (n : Node) (l r : Option Index),
      s.pend = [⟨j, len, val, .right⟩] → s.node? j = some n → n.kind = .internal l r →
      exec i s = .next { s with
        nodes := (s.nodes.set j.toNat { n with kind := .internal l (some new) }) ++ [leaf]
        root := j
        pend := []
        sentCount := sent }) ∧
    (∀ (j k : Index) (len val len' val' : Nat) (fs : List Frame) (n m : Node) (l r l' r' : Option Index), j ≠ k →
      s.pend = ⟨j, len, val, .right⟩ :: ⟨k, len', val', .left⟩ :: fs →
      s.node? j = some n → n.kind = .internal l r → s.node? k = some m → m.kind = .internal l' r' →
      exec i s = .next { s with
        nodes := ((s.nodes.set j.toNat { n with kind := .internal l (some new) }).set k.toNat
          { m with kind := .internal (some j) r' }) ++ [leaf]
        pend := ⟨k, len', val', .right⟩ :: fs
        sentCount := sent })) ∧
  (∀ (i : Instr) (s t : State), i.isToken = true → s.status.phase = .parsingTree → s.nodeN ≤ nodeCap → FramesOk s →
    exec i s = .next t → FramesOk t ∧ t.nodeN ≤ nodeCap)

/-- 42_tree_codec.md R153, R157: a token that would need a 514th node raises CapacityExceeded and allocates nothing. -/
def Obligations.TokenAtFullArenaIsRejected : Prop :=
  ∀ (i : Instr) (s : State), i.isToken = true → s.status.phase = .parsingTree → s.nodeN = nodeCap →
    exec i s = .next { s with
      q := [], pend := [], hdrStart := 0
      status := s.status.failed .capacityExceeded }

/-- The model's choice of log 12, on 30_encoding.md R101: outside a parse a header token is an unassigned opcode, refused. -/
def Obligations.TokenOutsideAParseIsRefused : Prop :=
  ∀ (i : Instr) (s : State), i.isToken = true → s.status.phase ≠ .parsingTree →
    exec i s = .next { s with status := { s.status with last := .illegalCommand, perrIllegal := true } }

/-- 42_tree_codec.md R153, 45_decoder_commands.md R211, the model's log 12: DEC_BUILD, one atomic step, reaches the state that
stepping its tokens one by one from its start reaches, the result delivered. -/
def Obligations.DecBuildIsTheRunOfItsTokens : Prop :=
  ∀ s : State, Inv s → s.status.phase = .idle →
    ∃ t k, exec .decBuild s = .next t ∧
      Host.Core.run Sys2Proof.core (k + 1)
        { s with
          status := { s.status with mode := .decoder, phase := .parsingTree }
          sentCount := 0#9
          hdrStart := s.mem.pos } =
      .next { t with seen := t.seen ++ [.rsp t.status.last] } ∧
      k ≤ s.input.length

/-! ### DEC_DECODE -/

/-- 45_decoder_commands.md R212, 43_bit_packer_unpacker.md R179, R180: where the walk over the words' bits reaches the sentinel,
DEC_DECODE writes the literals met, ends in Done just past the word that held the sentinel's last bit, and changes nothing else. -/
def Obligations.DecDecodeStopsAtTheSentinel : Prop :=
  ∀ (s : State) (T : Tree) (emitted : List Byte) (left : List Bool), Inv s → s.status.phase = .ready → s.tree? = some T →
    decodeBits T T (streamBits s.cfg s.input) = (emitted, some left) →
    ∃ t, exec .decDecode s = .next t ∧
      t = { s with
        word := t.word, mask := t.mask, cur := t.cur
        mem := ⟨s.mem.data,
          s.mem.pos + s.cfg.WB * wordCount s.cfg.W ((streamBits s.cfg s.input).length - left.length),
          s.mem.out ++ emitted⟩
        status := s.status.passed .done }

/-- 45_decoder_commands.md R213, 43_bit_packer_unpacker.md R181: where it does not, every whole word has been walked, the short tail
is consumed and unused, the literals met stay in OUT, and the result is TruncatedStream. -/
def Obligations.DecDecodeReportsTruncation : Prop :=
  ∀ (s : State) (T : Tree) (emitted : List Byte), Inv s → s.status.phase = .ready → s.tree? = some T →
    decodeBits T T (streamBits s.cfg s.input) = (emitted, none) →
    ∃ t, exec .decDecode s = .next t ∧
      t = { s with
        word := t.word, mask := t.mask, cur := t.cur
        mem := ⟨s.mem.data, s.mem.data.length, s.mem.out ++ emitted⟩
        status := s.status.failed .truncatedStream }

/-- 43_bit_packer_unpacker.md R182: for a tree that DEC_BUILD took in, the packer's payload of any sequence of its literals and the
sentinel decodes to exactly those literals, and exactly its words are consumed. -/
def Obligations.UnpackerInvertsThePacker : Prop :=
  ∀ (s : State) (T : Tree) (picks : List (Symbol × List Bool)) (stop : List Bool) (more : List Byte),
    Inv s → s.status.phase = .ready → s.tree? = some T →
    (∀ c ∈ picks, c ∈ T.codes ∧ c.1 ≠ sentinel) → (sentinel, stop) ∈ T.codes →
    s.input = payloadBytes s.cfg (picks.flatMap (·.2) ++ stop) ++ more →
    ∃ t, exec .decDecode s = .next t ∧ t.status.last = .ok ∧ t.status.phase = .done ∧
      t.mem.out = s.mem.out ++ picks.map (fun c => c.1.setWidth 8) ∧
      t.mem.pos = s.mem.pos + s.cfg.WB * wordCount s.cfg.W (picks.flatMap (·.2) ++ stop).length

/-- 44_encoder_commands.md R198: for every non-empty S on which ENC_BUILD returns OK, decoding what the encode session wrote,
under the same W and byte order, gives S; with the gate off ENC_BUILD returns OK for every non-empty S the counters can hold;
with the gate on it refuses every S of fewer than 5 + W/8 bytes; an S the counters cannot hold is CounterOverflow. -/
def Obligations.EncodeThenDecodeIsIdentity : Prop :=
  (∀ s s1 : State, Inv s → s.status.phase = .idle → s.mem.pos = 0 → s.mem.out = [] → s.mem.data ≠ [] →
    exec .encBuild s = .next s1 → s1.status.last = .ok →
    ∃ s2 s3, exec .encExport s1.rewind = .next s2 ∧ exec .encEncode s2 = .next s3 ∧ s3.status.last = .ok ∧
      ∀ d : State, Inv d → d.status.phase = .idle → d.cfg.W = s.cfg.W → d.cfg.order = s.cfg.order →
        d.mem = ⟨s3.mem.out, 0, []⟩ →
        ∃ d1 d2, exec .decBuild d = .next d1 ∧ d1.status.last = .ok ∧ exec .decDecode d1 = .next d2 ∧
          d2.status.last = .ok ∧ d2.mem.out = s.mem.data) ∧
  (∀ s : State, Inv s → s.status.phase = .idle → s.gateEn = false → s.input ≠ [] → s.input.length ≤ s.cfg.maxCount →
    ∃ s1, exec .encBuild s = .next s1 ∧ s1.status.last = .ok) ∧
  (∀ s : State, Inv s → s.status.phase = .idle → s.gateEn = true → s.input ≠ [] → s.input.length ≤ s.cfg.maxCount →
    s.input.length < 5 + s.cfg.WB →
    ∃ s1, exec .encBuild s = .next s1 ∧ s1.status.last = .notCompressible) ∧
  (∀ s : State, Inv s → s.status.phase = .idle → s.cfg.maxCount < s.input.length →
    ∃ s1, exec .encBuild s = .next s1 ∧ s1.status.last = .counterOverflow)

/-! ### SESSION_END -/

/-- 46_session_commands.md R225: in every resting state SESSION_END gives every piece of state its reset value but CTRL, IN and OUT;
ROOT and CUR are left open (log 2), for every value of the free values drawn. -/
def Obligations.SessionEndRestoresResetValues : Prop :=
  ∀ s : State, s.status.phase.resting = true →
    ∃ t, exec .sessionEnd s = .next t ∧
      t = { State.resetWith s.cfg with
        root := t.root, cur := t.cur, draws := t.draws
        ctrl := s.ctrl, mem := s.mem, script := s.script, seen := s.seen }
end

