-- ==== Sys2Proof/Laws/State.lean ====
section
/-! SUPPORT. One lemma for each field of each named update of State, true by unfolding, so that no later proof unfolds a record
update. -/

namespace Sys2Proof.Machine

variable (s : State)

/-! `setPhase` -/

@[simp] theorem State.setPhase_cfg (p : Phase) : (s.setPhase p).cfg = s.cfg := rfl
@[simp] theorem State.setPhase_freq (p : Phase) : (s.setPhase p).freq = s.freq := rfl
@[simp] theorem State.setPhase_nodes (p : Phase) : (s.setPhase p).nodes = s.nodes := rfl
@[simp] theorem State.setPhase_root (p : Phase) : (s.setPhase p).root = s.root := rfl
@[simp] theorem State.setPhase_leafOf (p : Phase) : (s.setPhase p).leafOf = s.leafOf := rfl
@[simp] theorem State.setPhase_q (p : Phase) : (s.setPhase p).q = s.q := rfl
@[simp] theorem State.setPhase_acc (p : Phase) : (s.setPhase p).acc = s.acc := rfl
@[simp] theorem State.setPhase_cnt (p : Phase) : (s.setPhase p).cnt = s.cnt := rfl
@[simp] theorem State.setPhase_word (p : Phase) : (s.setPhase p).word = s.word := rfl
@[simp] theorem State.setPhase_mask (p : Phase) : (s.setPhase p).mask = s.mask := rfl
@[simp] theorem State.setPhase_cur (p : Phase) : (s.setPhase p).cur = s.cur := rfl
@[simp] theorem State.setPhase_pend (p : Phase) : (s.setPhase p).pend = s.pend := rfl
@[simp] theorem State.setPhase_hdrStart (p : Phase) : (s.setPhase p).hdrStart = s.hdrStart := rfl
@[simp] theorem State.setPhase_status (p : Phase) : (s.setPhase p).status = { s.status with phase := p } := rfl
@[simp] theorem State.setPhase_ctrl (p : Phase) : (s.setPhase p).ctrl = s.ctrl := rfl
@[simp] theorem State.setPhase_inCount (p : Phase) : (s.setPhase p).inCount = s.inCount := rfl
@[simp] theorem State.setPhase_hdrBytes (p : Phase) : (s.setPhase p).hdrBytes = s.hdrBytes := rfl
@[simp] theorem State.setPhase_payloadBits (p : Phase) : (s.setPhase p).payloadBits = s.payloadBits := rfl
@[simp] theorem State.setPhase_sentCount (p : Phase) : (s.setPhase p).sentCount = s.sentCount := rfl
@[simp] theorem State.setPhase_mem (p : Phase) : (s.setPhase p).mem = s.mem := rfl
@[simp] theorem State.setPhase_script (p : Phase) : (s.setPhase p).script = s.script := rfl
@[simp] theorem State.setPhase_seen (p : Phase) : (s.setPhase p).seen = s.seen := rfl
@[simp] theorem State.setPhase_draws (p : Phase) : (s.setPhase p).draws = s.draws := rfl

/-! `enter` -/

@[simp] theorem State.enter_cfg (m : Mode) (p : Phase) : (s.enter m p).cfg = s.cfg := rfl
@[simp] theorem State.enter_freq (m : Mode) (p : Phase) : (s.enter m p).freq = s.freq := rfl
@[simp] theorem State.enter_nodes (m : Mode) (p : Phase) : (s.enter m p).nodes = s.nodes := rfl
@[simp] theorem State.enter_root (m : Mode) (p : Phase) : (s.enter m p).root = s.root := rfl
@[simp] theorem State.enter_leafOf (m : Mode) (p : Phase) : (s.enter m p).leafOf = s.leafOf := rfl
@[simp] theorem State.enter_q (m : Mode) (p : Phase) : (s.enter m p).q = s.q := rfl
@[simp] theorem State.enter_acc (m : Mode) (p : Phase) : (s.enter m p).acc = s.acc := rfl
@[simp] theorem State.enter_cnt (m : Mode) (p : Phase) : (s.enter m p).cnt = s.cnt := rfl
@[simp] theorem State.enter_word (m : Mode) (p : Phase) : (s.enter m p).word = s.word := rfl
@[simp] theorem State.enter_mask (m : Mode) (p : Phase) : (s.enter m p).mask = s.mask := rfl
@[simp] theorem State.enter_cur (m : Mode) (p : Phase) : (s.enter m p).cur = s.cur := rfl
@[simp] theorem State.enter_pend (m : Mode) (p : Phase) : (s.enter m p).pend = s.pend := rfl
@[simp] theorem State.enter_hdrStart (m : Mode) (p : Phase) : (s.enter m p).hdrStart = s.hdrStart := rfl
@[simp] theorem State.enter_status (m : Mode) (p : Phase) : (s.enter m p).status = { s.status with mode := m, phase := p } := rfl
@[simp] theorem State.enter_ctrl (m : Mode) (p : Phase) : (s.enter m p).ctrl = s.ctrl := rfl
@[simp] theorem State.enter_inCount (m : Mode) (p : Phase) : (s.enter m p).inCount = s.inCount := rfl
@[simp] theorem State.enter_hdrBytes (m : Mode) (p : Phase) : (s.enter m p).hdrBytes = s.hdrBytes := rfl
@[simp] theorem State.enter_payloadBits (m : Mode) (p : Phase) : (s.enter m p).payloadBits = s.payloadBits := rfl
@[simp] theorem State.enter_sentCount (m : Mode) (p : Phase) : (s.enter m p).sentCount = s.sentCount := rfl
@[simp] theorem State.enter_mem (m : Mode) (p : Phase) : (s.enter m p).mem = s.mem := rfl
@[simp] theorem State.enter_script (m : Mode) (p : Phase) : (s.enter m p).script = s.script := rfl
@[simp] theorem State.enter_seen (m : Mode) (p : Phase) : (s.enter m p).seen = s.seen := rfl
@[simp] theorem State.enter_draws (m : Mode) (p : Phase) : (s.enter m p).draws = s.draws := rfl

/-! `dropLocals` -/

@[simp] theorem State.dropLocals_cfg : (s.dropLocals).cfg = s.cfg := rfl
@[simp] theorem State.dropLocals_freq : (s.dropLocals).freq = s.freq := rfl
@[simp] theorem State.dropLocals_nodes : (s.dropLocals).nodes = s.nodes := rfl
@[simp] theorem State.dropLocals_root : (s.dropLocals).root = s.root := rfl
@[simp] theorem State.dropLocals_leafOf : (s.dropLocals).leafOf = s.leafOf := rfl
@[simp] theorem State.dropLocals_q : (s.dropLocals).q = [] := rfl
@[simp] theorem State.dropLocals_acc : (s.dropLocals).acc = s.acc := rfl
@[simp] theorem State.dropLocals_cnt : (s.dropLocals).cnt = s.cnt := rfl
@[simp] theorem State.dropLocals_word : (s.dropLocals).word = s.word := rfl
@[simp] theorem State.dropLocals_mask : (s.dropLocals).mask = s.mask := rfl
@[simp] theorem State.dropLocals_cur : (s.dropLocals).cur = s.cur := rfl
@[simp] theorem State.dropLocals_pend : (s.dropLocals).pend = [] := rfl
@[simp] theorem State.dropLocals_hdrStart : (s.dropLocals).hdrStart = 0 := rfl
@[simp] theorem State.dropLocals_status : (s.dropLocals).status = s.status := rfl
@[simp] theorem State.dropLocals_ctrl : (s.dropLocals).ctrl = s.ctrl := rfl
@[simp] theorem State.dropLocals_inCount : (s.dropLocals).inCount = s.inCount := rfl
@[simp] theorem State.dropLocals_hdrBytes : (s.dropLocals).hdrBytes = s.hdrBytes := rfl
@[simp] theorem State.dropLocals_payloadBits : (s.dropLocals).payloadBits = s.payloadBits := rfl
@[simp] theorem State.dropLocals_sentCount : (s.dropLocals).sentCount = s.sentCount := rfl
@[simp] theorem State.dropLocals_mem : (s.dropLocals).mem = s.mem := rfl
@[simp] theorem State.dropLocals_script : (s.dropLocals).script = s.script := rfl
@[simp] theorem State.dropLocals_seen : (s.dropLocals).seen = s.seen := rfl
@[simp] theorem State.dropLocals_draws : (s.dropLocals).draws = s.draws := rfl

/-! `raise` -/

@[simp] theorem State.raise_cfg (e : Result) : (s.raise e).cfg = s.cfg := rfl
@[simp] theorem State.raise_freq (e : Result) : (s.raise e).freq = s.freq := rfl
@[simp] theorem State.raise_nodes (e : Result) : (s.raise e).nodes = s.nodes := rfl
@[simp] theorem State.raise_root (e : Result) : (s.raise e).root = s.root := rfl
@[simp] theorem State.raise_leafOf (e : Result) : (s.raise e).leafOf = s.leafOf := rfl
@[simp] theorem State.raise_q (e : Result) : (s.raise e).q = [] := rfl
@[simp] theorem State.raise_acc (e : Result) : (s.raise e).acc = s.acc := rfl
@[simp] theorem State.raise_cnt (e : Result) : (s.raise e).cnt = s.cnt := rfl
@[simp] theorem State.raise_word (e : Result) : (s.raise e).word = s.word := rfl
@[simp] theorem State.raise_mask (e : Result) : (s.raise e).mask = s.mask := rfl
@[simp] theorem State.raise_cur (e : Result) : (s.raise e).cur = s.cur := rfl
@[simp] theorem State.raise_pend (e : Result) : (s.raise e).pend = [] := rfl
@[simp] theorem State.raise_hdrStart (e : Result) : (s.raise e).hdrStart = 0 := rfl
@[simp] theorem State.raise_status (e : Result) : (s.raise e).status = { s.status with phase := .rejected, err := e, last := e } := rfl
@[simp] theorem State.raise_ctrl (e : Result) : (s.raise e).ctrl = s.ctrl := rfl
@[simp] theorem State.raise_inCount (e : Result) : (s.raise e).inCount = s.inCount := rfl
@[simp] theorem State.raise_hdrBytes (e : Result) : (s.raise e).hdrBytes = s.hdrBytes := rfl
@[simp] theorem State.raise_payloadBits (e : Result) : (s.raise e).payloadBits = s.payloadBits := rfl
@[simp] theorem State.raise_sentCount (e : Result) : (s.raise e).sentCount = s.sentCount := rfl
@[simp] theorem State.raise_mem (e : Result) : (s.raise e).mem = s.mem := rfl
@[simp] theorem State.raise_script (e : Result) : (s.raise e).script = s.script := rfl
@[simp] theorem State.raise_seen (e : Result) : (s.raise e).seen = s.seen := rfl
@[simp] theorem State.raise_draws (e : Result) : (s.raise e).draws = s.draws := rfl

/-! `retOk` -/

@[simp] theorem State.retOk_cfg (p : Phase) : (s.retOk p).cfg = s.cfg := rfl
@[simp] theorem State.retOk_freq (p : Phase) : (s.retOk p).freq = s.freq := rfl
@[simp] theorem State.retOk_nodes (p : Phase) : (s.retOk p).nodes = s.nodes := rfl
@[simp] theorem State.retOk_root (p : Phase) : (s.retOk p).root = s.root := rfl
@[simp] theorem State.retOk_leafOf (p : Phase) : (s.retOk p).leafOf = s.leafOf := rfl
@[simp] theorem State.retOk_q (p : Phase) : (s.retOk p).q = [] := rfl
@[simp] theorem State.retOk_acc (p : Phase) : (s.retOk p).acc = s.acc := rfl
@[simp] theorem State.retOk_cnt (p : Phase) : (s.retOk p).cnt = s.cnt := rfl
@[simp] theorem State.retOk_word (p : Phase) : (s.retOk p).word = s.word := rfl
@[simp] theorem State.retOk_mask (p : Phase) : (s.retOk p).mask = s.mask := rfl
@[simp] theorem State.retOk_cur (p : Phase) : (s.retOk p).cur = s.cur := rfl
@[simp] theorem State.retOk_pend (p : Phase) : (s.retOk p).pend = [] := rfl
@[simp] theorem State.retOk_hdrStart (p : Phase) : (s.retOk p).hdrStart = 0 := rfl
@[simp] theorem State.retOk_status (p : Phase) : (s.retOk p).status = { s.status with phase := p, last := .ok } := rfl
@[simp] theorem State.retOk_ctrl (p : Phase) : (s.retOk p).ctrl = s.ctrl := rfl
@[simp] theorem State.retOk_inCount (p : Phase) : (s.retOk p).inCount = s.inCount := rfl
@[simp] theorem State.retOk_hdrBytes (p : Phase) : (s.retOk p).hdrBytes = s.hdrBytes := rfl
@[simp] theorem State.retOk_payloadBits (p : Phase) : (s.retOk p).payloadBits = s.payloadBits := rfl
@[simp] theorem State.retOk_sentCount (p : Phase) : (s.retOk p).sentCount = s.sentCount := rfl
@[simp] theorem State.retOk_mem (p : Phase) : (s.retOk p).mem = s.mem := rfl
@[simp] theorem State.retOk_script (p : Phase) : (s.retOk p).script = s.script := rfl
@[simp] theorem State.retOk_seen (p : Phase) : (s.retOk p).seen = s.seen := rfl
@[simp] theorem State.retOk_draws (p : Phase) : (s.retOk p).draws = s.draws := rfl

/-! `refuseIllegal` -/

@[simp] theorem State.refuseIllegal_cfg : (s.refuseIllegal).cfg = s.cfg := rfl
@[simp] theorem State.refuseIllegal_freq : (s.refuseIllegal).freq = s.freq := rfl
@[simp] theorem State.refuseIllegal_nodes : (s.refuseIllegal).nodes = s.nodes := rfl
@[simp] theorem State.refuseIllegal_root : (s.refuseIllegal).root = s.root := rfl
@[simp] theorem State.refuseIllegal_leafOf : (s.refuseIllegal).leafOf = s.leafOf := rfl
@[simp] theorem State.refuseIllegal_q : (s.refuseIllegal).q = s.q := rfl
@[simp] theorem State.refuseIllegal_acc : (s.refuseIllegal).acc = s.acc := rfl
@[simp] theorem State.refuseIllegal_cnt : (s.refuseIllegal).cnt = s.cnt := rfl
@[simp] theorem State.refuseIllegal_word : (s.refuseIllegal).word = s.word := rfl
@[simp] theorem State.refuseIllegal_mask : (s.refuseIllegal).mask = s.mask := rfl
@[simp] theorem State.refuseIllegal_cur : (s.refuseIllegal).cur = s.cur := rfl
@[simp] theorem State.refuseIllegal_pend : (s.refuseIllegal).pend = s.pend := rfl
@[simp] theorem State.refuseIllegal_hdrStart : (s.refuseIllegal).hdrStart = s.hdrStart := rfl
@[simp] theorem State.refuseIllegal_status : (s.refuseIllegal).status = { s.status with last := .illegalCommand, perrIllegal := true } := rfl
@[simp] theorem State.refuseIllegal_ctrl : (s.refuseIllegal).ctrl = s.ctrl := rfl
@[simp] theorem State.refuseIllegal_inCount : (s.refuseIllegal).inCount = s.inCount := rfl
@[simp] theorem State.refuseIllegal_hdrBytes : (s.refuseIllegal).hdrBytes = s.hdrBytes := rfl
@[simp] theorem State.refuseIllegal_payloadBits : (s.refuseIllegal).payloadBits = s.payloadBits := rfl
@[simp] theorem State.refuseIllegal_sentCount : (s.refuseIllegal).sentCount = s.sentCount := rfl
@[simp] theorem State.refuseIllegal_mem : (s.refuseIllegal).mem = s.mem := rfl
@[simp] theorem State.refuseIllegal_script : (s.refuseIllegal).script = s.script := rfl
@[simp] theorem State.refuseIllegal_seen : (s.refuseIllegal).seen = s.seen := rfl
@[simp] theorem State.refuseIllegal_draws : (s.refuseIllegal).draws = s.draws := rfl

/-! `refuseBadState` -/

@[simp] theorem State.refuseBadState_cfg : (s.refuseBadState).cfg = s.cfg := rfl
@[simp] theorem State.refuseBadState_freq : (s.refuseBadState).freq = s.freq := rfl
@[simp] theorem State.refuseBadState_nodes : (s.refuseBadState).nodes = s.nodes := rfl
@[simp] theorem State.refuseBadState_root : (s.refuseBadState).root = s.root := rfl
@[simp] theorem State.refuseBadState_leafOf : (s.refuseBadState).leafOf = s.leafOf := rfl
@[simp] theorem State.refuseBadState_q : (s.refuseBadState).q = s.q := rfl
@[simp] theorem State.refuseBadState_acc : (s.refuseBadState).acc = s.acc := rfl
@[simp] theorem State.refuseBadState_cnt : (s.refuseBadState).cnt = s.cnt := rfl
@[simp] theorem State.refuseBadState_word : (s.refuseBadState).word = s.word := rfl
@[simp] theorem State.refuseBadState_mask : (s.refuseBadState).mask = s.mask := rfl
@[simp] theorem State.refuseBadState_cur : (s.refuseBadState).cur = s.cur := rfl
@[simp] theorem State.refuseBadState_pend : (s.refuseBadState).pend = s.pend := rfl
@[simp] theorem State.refuseBadState_hdrStart : (s.refuseBadState).hdrStart = s.hdrStart := rfl
@[simp] theorem State.refuseBadState_status : (s.refuseBadState).status = { s.status with last := .badState, perrBadState := true } := rfl
@[simp] theorem State.refuseBadState_ctrl : (s.refuseBadState).ctrl = s.ctrl := rfl
@[simp] theorem State.refuseBadState_inCount : (s.refuseBadState).inCount = s.inCount := rfl
@[simp] theorem State.refuseBadState_hdrBytes : (s.refuseBadState).hdrBytes = s.hdrBytes := rfl
@[simp] theorem State.refuseBadState_payloadBits : (s.refuseBadState).payloadBits = s.payloadBits := rfl
@[simp] theorem State.refuseBadState_sentCount : (s.refuseBadState).sentCount = s.sentCount := rfl
@[simp] theorem State.refuseBadState_mem : (s.refuseBadState).mem = s.mem := rfl
@[simp] theorem State.refuseBadState_script : (s.refuseBadState).script = s.script := rfl
@[simp] theorem State.refuseBadState_seen : (s.refuseBadState).seen = s.seen := rfl
@[simp] theorem State.refuseBadState_draws : (s.refuseBadState).draws = s.draws := rfl

/-! `attachIn` -/

@[simp] theorem State.attachIn_cfg (bytes : List Byte) : (s.attachIn bytes).cfg = s.cfg := rfl
@[simp] theorem State.attachIn_freq (bytes : List Byte) : (s.attachIn bytes).freq = s.freq := rfl
@[simp] theorem State.attachIn_nodes (bytes : List Byte) : (s.attachIn bytes).nodes = s.nodes := rfl
@[simp] theorem State.attachIn_root (bytes : List Byte) : (s.attachIn bytes).root = s.root := rfl
@[simp] theorem State.attachIn_leafOf (bytes : List Byte) : (s.attachIn bytes).leafOf = s.leafOf := rfl
@[simp] theorem State.attachIn_q (bytes : List Byte) : (s.attachIn bytes).q = s.q := rfl
@[simp] theorem State.attachIn_acc (bytes : List Byte) : (s.attachIn bytes).acc = s.acc := rfl
@[simp] theorem State.attachIn_cnt (bytes : List Byte) : (s.attachIn bytes).cnt = s.cnt := rfl
@[simp] theorem State.attachIn_word (bytes : List Byte) : (s.attachIn bytes).word = s.word := rfl
@[simp] theorem State.attachIn_mask (bytes : List Byte) : (s.attachIn bytes).mask = s.mask := rfl
@[simp] theorem State.attachIn_cur (bytes : List Byte) : (s.attachIn bytes).cur = s.cur := rfl
@[simp] theorem State.attachIn_pend (bytes : List Byte) : (s.attachIn bytes).pend = s.pend := rfl
@[simp] theorem State.attachIn_hdrStart (bytes : List Byte) : (s.attachIn bytes).hdrStart = s.hdrStart := rfl
@[simp] theorem State.attachIn_status (bytes : List Byte) : (s.attachIn bytes).status = s.status := rfl
@[simp] theorem State.attachIn_ctrl (bytes : List Byte) : (s.attachIn bytes).ctrl = s.ctrl := rfl
@[simp] theorem State.attachIn_inCount (bytes : List Byte) : (s.attachIn bytes).inCount = s.inCount := rfl
@[simp] theorem State.attachIn_hdrBytes (bytes : List Byte) : (s.attachIn bytes).hdrBytes = s.hdrBytes := rfl
@[simp] theorem State.attachIn_payloadBits (bytes : List Byte) : (s.attachIn bytes).payloadBits = s.payloadBits := rfl
@[simp] theorem State.attachIn_sentCount (bytes : List Byte) : (s.attachIn bytes).sentCount = s.sentCount := rfl
@[simp] theorem State.attachIn_mem (bytes : List Byte) : (s.attachIn bytes).mem = { s.mem with data := bytes, pos := 0 } := rfl
@[simp] theorem State.attachIn_script (bytes : List Byte) : (s.attachIn bytes).script = s.script := rfl
@[simp] theorem State.attachIn_seen (bytes : List Byte) : (s.attachIn bytes).seen = s.seen := rfl
@[simp] theorem State.attachIn_draws (bytes : List Byte) : (s.attachIn bytes).draws = s.draws := rfl

/-! `rewind` -/

@[simp] theorem State.rewind_cfg : (s.rewind).cfg = s.cfg := rfl
@[simp] theorem State.rewind_freq : (s.rewind).freq = s.freq := rfl
@[simp] theorem State.rewind_nodes : (s.rewind).nodes = s.nodes := rfl
@[simp] theorem State.rewind_root : (s.rewind).root = s.root := rfl
@[simp] theorem State.rewind_leafOf : (s.rewind).leafOf = s.leafOf := rfl
@[simp] theorem State.rewind_q : (s.rewind).q = s.q := rfl
@[simp] theorem State.rewind_acc : (s.rewind).acc = s.acc := rfl
@[simp] theorem State.rewind_cnt : (s.rewind).cnt = s.cnt := rfl
@[simp] theorem State.rewind_word : (s.rewind).word = s.word := rfl
@[simp] theorem State.rewind_mask : (s.rewind).mask = s.mask := rfl
@[simp] theorem State.rewind_cur : (s.rewind).cur = s.cur := rfl
@[simp] theorem State.rewind_pend : (s.rewind).pend = s.pend := rfl
@[simp] theorem State.rewind_hdrStart : (s.rewind).hdrStart = s.hdrStart := rfl
@[simp] theorem State.rewind_status : (s.rewind).status = s.status := rfl
@[simp] theorem State.rewind_ctrl : (s.rewind).ctrl = s.ctrl := rfl
@[simp] theorem State.rewind_inCount : (s.rewind).inCount = s.inCount := rfl
@[simp] theorem State.rewind_hdrBytes : (s.rewind).hdrBytes = s.hdrBytes := rfl
@[simp] theorem State.rewind_payloadBits : (s.rewind).payloadBits = s.payloadBits := rfl
@[simp] theorem State.rewind_sentCount : (s.rewind).sentCount = s.sentCount := rfl
@[simp] theorem State.rewind_mem : (s.rewind).mem = { s.mem with pos := 0 } := rfl
@[simp] theorem State.rewind_script : (s.rewind).script = s.script := rfl
@[simp] theorem State.rewind_seen : (s.rewind).seen = s.seen := rfl
@[simp] theorem State.rewind_draws : (s.rewind).draws = s.draws := rfl

/-! `attachOut` -/

@[simp] theorem State.attachOut_cfg : (s.attachOut).cfg = s.cfg := rfl
@[simp] theorem State.attachOut_freq : (s.attachOut).freq = s.freq := rfl
@[simp] theorem State.attachOut_nodes : (s.attachOut).nodes = s.nodes := rfl
@[simp] theorem State.attachOut_root : (s.attachOut).root = s.root := rfl
@[simp] theorem State.attachOut_leafOf : (s.attachOut).leafOf = s.leafOf := rfl
@[simp] theorem State.attachOut_q : (s.attachOut).q = s.q := rfl
@[simp] theorem State.attachOut_acc : (s.attachOut).acc = s.acc := rfl
@[simp] theorem State.attachOut_cnt : (s.attachOut).cnt = s.cnt := rfl
@[simp] theorem State.attachOut_word : (s.attachOut).word = s.word := rfl
@[simp] theorem State.attachOut_mask : (s.attachOut).mask = s.mask := rfl
@[simp] theorem State.attachOut_cur : (s.attachOut).cur = s.cur := rfl
@[simp] theorem State.attachOut_pend : (s.attachOut).pend = s.pend := rfl
@[simp] theorem State.attachOut_hdrStart : (s.attachOut).hdrStart = s.hdrStart := rfl
@[simp] theorem State.attachOut_status : (s.attachOut).status = s.status := rfl
@[simp] theorem State.attachOut_ctrl : (s.attachOut).ctrl = s.ctrl := rfl
@[simp] theorem State.attachOut_inCount : (s.attachOut).inCount = s.inCount := rfl
@[simp] theorem State.attachOut_hdrBytes : (s.attachOut).hdrBytes = s.hdrBytes := rfl
@[simp] theorem State.attachOut_payloadBits : (s.attachOut).payloadBits = s.payloadBits := rfl
@[simp] theorem State.attachOut_sentCount : (s.attachOut).sentCount = s.sentCount := rfl
@[simp] theorem State.attachOut_mem : (s.attachOut).mem = { s.mem with out := [] } := rfl
@[simp] theorem State.attachOut_script : (s.attachOut).script = s.script := rfl
@[simp] theorem State.attachOut_seen : (s.attachOut).seen = s.seen := rfl
@[simp] theorem State.attachOut_draws : (s.attachOut).draws = s.draws := rfl

/-! `outWrite` -/

@[simp] theorem State.outWrite_cfg (bytes : List Byte) : (s.outWrite bytes).cfg = s.cfg := rfl
@[simp] theorem State.outWrite_freq (bytes : List Byte) : (s.outWrite bytes).freq = s.freq := rfl
@[simp] theorem State.outWrite_nodes (bytes : List Byte) : (s.outWrite bytes).nodes = s.nodes := rfl
@[simp] theorem State.outWrite_root (bytes : List Byte) : (s.outWrite bytes).root = s.root := rfl
@[simp] theorem State.outWrite_leafOf (bytes : List Byte) : (s.outWrite bytes).leafOf = s.leafOf := rfl
@[simp] theorem State.outWrite_q (bytes : List Byte) : (s.outWrite bytes).q = s.q := rfl
@[simp] theorem State.outWrite_acc (bytes : List Byte) : (s.outWrite bytes).acc = s.acc := rfl
@[simp] theorem State.outWrite_cnt (bytes : List Byte) : (s.outWrite bytes).cnt = s.cnt := rfl
@[simp] theorem State.outWrite_word (bytes : List Byte) : (s.outWrite bytes).word = s.word := rfl
@[simp] theorem State.outWrite_mask (bytes : List Byte) : (s.outWrite bytes).mask = s.mask := rfl
@[simp] theorem State.outWrite_cur (bytes : List Byte) : (s.outWrite bytes).cur = s.cur := rfl
@[simp] theorem State.outWrite_pend (bytes : List Byte) : (s.outWrite bytes).pend = s.pend := rfl
@[simp] theorem State.outWrite_hdrStart (bytes : List Byte) : (s.outWrite bytes).hdrStart = s.hdrStart := rfl
@[simp] theorem State.outWrite_status (bytes : List Byte) : (s.outWrite bytes).status = s.status := rfl
@[simp] theorem State.outWrite_ctrl (bytes : List Byte) : (s.outWrite bytes).ctrl = s.ctrl := rfl
@[simp] theorem State.outWrite_inCount (bytes : List Byte) : (s.outWrite bytes).inCount = s.inCount := rfl
@[simp] theorem State.outWrite_hdrBytes (bytes : List Byte) : (s.outWrite bytes).hdrBytes = s.hdrBytes := rfl
@[simp] theorem State.outWrite_payloadBits (bytes : List Byte) : (s.outWrite bytes).payloadBits = s.payloadBits := rfl
@[simp] theorem State.outWrite_sentCount (bytes : List Byte) : (s.outWrite bytes).sentCount = s.sentCount := rfl
@[simp] theorem State.outWrite_mem (bytes : List Byte) : (s.outWrite bytes).mem = { s.mem with out := s.mem.out ++ bytes } := rfl
@[simp] theorem State.outWrite_script (bytes : List Byte) : (s.outWrite bytes).script = s.script := rfl
@[simp] theorem State.outWrite_seen (bytes : List Byte) : (s.outWrite bytes).seen = s.seen := rfl
@[simp] theorem State.outWrite_draws (bytes : List Byte) : (s.outWrite bytes).draws = s.draws := rfl

/-! `outWriteWord` -/

@[simp] theorem State.outWriteWord_cfg (w : Nat) : (s.outWriteWord w).cfg = s.cfg := rfl
@[simp] theorem State.outWriteWord_freq (w : Nat) : (s.outWriteWord w).freq = s.freq := rfl
@[simp] theorem State.outWriteWord_nodes (w : Nat) : (s.outWriteWord w).nodes = s.nodes := rfl
@[simp] theorem State.outWriteWord_root (w : Nat) : (s.outWriteWord w).root = s.root := rfl
@[simp] theorem State.outWriteWord_leafOf (w : Nat) : (s.outWriteWord w).leafOf = s.leafOf := rfl
@[simp] theorem State.outWriteWord_q (w : Nat) : (s.outWriteWord w).q = s.q := rfl
@[simp] theorem State.outWriteWord_acc (w : Nat) : (s.outWriteWord w).acc = s.acc := rfl
@[simp] theorem State.outWriteWord_cnt (w : Nat) : (s.outWriteWord w).cnt = s.cnt := rfl
@[simp] theorem State.outWriteWord_word (w : Nat) : (s.outWriteWord w).word = s.word := rfl
@[simp] theorem State.outWriteWord_mask (w : Nat) : (s.outWriteWord w).mask = s.mask := rfl
@[simp] theorem State.outWriteWord_cur (w : Nat) : (s.outWriteWord w).cur = s.cur := rfl
@[simp] theorem State.outWriteWord_pend (w : Nat) : (s.outWriteWord w).pend = s.pend := rfl
@[simp] theorem State.outWriteWord_hdrStart (w : Nat) : (s.outWriteWord w).hdrStart = s.hdrStart := rfl
@[simp] theorem State.outWriteWord_status (w : Nat) : (s.outWriteWord w).status = s.status := rfl
@[simp] theorem State.outWriteWord_ctrl (w : Nat) : (s.outWriteWord w).ctrl = s.ctrl := rfl
@[simp] theorem State.outWriteWord_inCount (w : Nat) : (s.outWriteWord w).inCount = s.inCount := rfl
@[simp] theorem State.outWriteWord_hdrBytes (w : Nat) : (s.outWriteWord w).hdrBytes = s.hdrBytes := rfl
@[simp] theorem State.outWriteWord_payloadBits (w : Nat) : (s.outWriteWord w).payloadBits = s.payloadBits := rfl
@[simp] theorem State.outWriteWord_sentCount (w : Nat) : (s.outWriteWord w).sentCount = s.sentCount := rfl
@[simp] theorem State.outWriteWord_mem (w : Nat) : (s.outWriteWord w).mem = { s.mem with out := s.mem.out ++ wordBytes s.cfg w } := rfl
@[simp] theorem State.outWriteWord_script (w : Nat) : (s.outWriteWord w).script = s.script := rfl
@[simp] theorem State.outWriteWord_seen (w : Nat) : (s.outWriteWord w).seen = s.seen := rfl
@[simp] theorem State.outWriteWord_draws (w : Nat) : (s.outWriteWord w).draws = s.draws := rfl

/-! `setNode` -/

@[simp] theorem State.setNode_cfg (i : Index) (n : Node) : (s.setNode i n).cfg = s.cfg := rfl
@[simp] theorem State.setNode_freq (i : Index) (n : Node) : (s.setNode i n).freq = s.freq := rfl
@[simp] theorem State.setNode_nodes (i : Index) (n : Node) : (s.setNode i n).nodes = s.nodes.set i.toNat n := rfl
@[simp] theorem State.setNode_root (i : Index) (n : Node) : (s.setNode i n).root = s.root := rfl
@[simp] theorem State.setNode_leafOf (i : Index) (n : Node) : (s.setNode i n).leafOf = s.leafOf := rfl
@[simp] theorem State.setNode_q (i : Index) (n : Node) : (s.setNode i n).q = s.q := rfl
@[simp] theorem State.setNode_acc (i : Index) (n : Node) : (s.setNode i n).acc = s.acc := rfl
@[simp] theorem State.setNode_cnt (i : Index) (n : Node) : (s.setNode i n).cnt = s.cnt := rfl
@[simp] theorem State.setNode_word (i : Index) (n : Node) : (s.setNode i n).word = s.word := rfl
@[simp] theorem State.setNode_mask (i : Index) (n : Node) : (s.setNode i n).mask = s.mask := rfl
@[simp] theorem State.setNode_cur (i : Index) (n : Node) : (s.setNode i n).cur = s.cur := rfl
@[simp] theorem State.setNode_pend (i : Index) (n : Node) : (s.setNode i n).pend = s.pend := rfl
@[simp] theorem State.setNode_hdrStart (i : Index) (n : Node) : (s.setNode i n).hdrStart = s.hdrStart := rfl
@[simp] theorem State.setNode_status (i : Index) (n : Node) : (s.setNode i n).status = s.status := rfl
@[simp] theorem State.setNode_ctrl (i : Index) (n : Node) : (s.setNode i n).ctrl = s.ctrl := rfl
@[simp] theorem State.setNode_inCount (i : Index) (n : Node) : (s.setNode i n).inCount = s.inCount := rfl
@[simp] theorem State.setNode_hdrBytes (i : Index) (n : Node) : (s.setNode i n).hdrBytes = s.hdrBytes := rfl
@[simp] theorem State.setNode_payloadBits (i : Index) (n : Node) : (s.setNode i n).payloadBits = s.payloadBits := rfl
@[simp] theorem State.setNode_sentCount (i : Index) (n : Node) : (s.setNode i n).sentCount = s.sentCount := rfl
@[simp] theorem State.setNode_mem (i : Index) (n : Node) : (s.setNode i n).mem = s.mem := rfl
@[simp] theorem State.setNode_script (i : Index) (n : Node) : (s.setNode i n).script = s.script := rfl
@[simp] theorem State.setNode_seen (i : Index) (n : Node) : (s.setNode i n).seen = s.seen := rfl
@[simp] theorem State.setNode_draws (i : Index) (n : Node) : (s.setNode i n).draws = s.draws := rfl

/-! `alloc` -/

@[simp] theorem State.alloc_cfg (n : Node) : (s.alloc n).cfg = s.cfg := rfl
@[simp] theorem State.alloc_freq (n : Node) : (s.alloc n).freq = s.freq := rfl
@[simp] theorem State.alloc_nodes (n : Node) : (s.alloc n).nodes = s.nodes ++ [n] := rfl
@[simp] theorem State.alloc_root (n : Node) : (s.alloc n).root = s.root := rfl
@[simp] theorem State.alloc_leafOf (n : Node) : (s.alloc n).leafOf = s.leafOf := rfl
@[simp] theorem State.alloc_q (n : Node) : (s.alloc n).q = s.q := rfl
@[simp] theorem State.alloc_acc (n : Node) : (s.alloc n).acc = s.acc := rfl
@[simp] theorem State.alloc_cnt (n : Node) : (s.alloc n).cnt = s.cnt := rfl
@[simp] theorem State.alloc_word (n : Node) : (s.alloc n).word = s.word := rfl
@[simp] theorem State.alloc_mask (n : Node) : (s.alloc n).mask = s.mask := rfl
@[simp] theorem State.alloc_cur (n : Node) : (s.alloc n).cur = s.cur := rfl
@[simp] theorem State.alloc_pend (n : Node) : (s.alloc n).pend = s.pend := rfl
@[simp] theorem State.alloc_hdrStart (n : Node) : (s.alloc n).hdrStart = s.hdrStart := rfl
@[simp] theorem State.alloc_status (n : Node) : (s.alloc n).status = s.status := rfl
@[simp] theorem State.alloc_ctrl (n : Node) : (s.alloc n).ctrl = s.ctrl := rfl
@[simp] theorem State.alloc_inCount (n : Node) : (s.alloc n).inCount = s.inCount := rfl
@[simp] theorem State.alloc_hdrBytes (n : Node) : (s.alloc n).hdrBytes = s.hdrBytes := rfl
@[simp] theorem State.alloc_payloadBits (n : Node) : (s.alloc n).payloadBits = s.payloadBits := rfl
@[simp] theorem State.alloc_sentCount (n : Node) : (s.alloc n).sentCount = s.sentCount := rfl
@[simp] theorem State.alloc_mem (n : Node) : (s.alloc n).mem = s.mem := rfl
@[simp] theorem State.alloc_script (n : Node) : (s.alloc n).script = s.script := rfl
@[simp] theorem State.alloc_seen (n : Node) : (s.alloc n).seen = s.seen := rfl
@[simp] theorem State.alloc_draws (n : Node) : (s.alloc n).draws = s.draws := rfl

/-! `writeCtrl` -/

@[simp] theorem State.writeCtrl_cfg (v : Byte) : (s.writeCtrl v).cfg = s.cfg := rfl
@[simp] theorem State.writeCtrl_freq (v : Byte) : (s.writeCtrl v).freq = s.freq := rfl
@[simp] theorem State.writeCtrl_nodes (v : Byte) : (s.writeCtrl v).nodes = s.nodes := rfl
@[simp] theorem State.writeCtrl_root (v : Byte) : (s.writeCtrl v).root = s.root := rfl
@[simp] theorem State.writeCtrl_leafOf (v : Byte) : (s.writeCtrl v).leafOf = s.leafOf := rfl
@[simp] theorem State.writeCtrl_q (v : Byte) : (s.writeCtrl v).q = s.q := rfl
@[simp] theorem State.writeCtrl_acc (v : Byte) : (s.writeCtrl v).acc = s.acc := rfl
@[simp] theorem State.writeCtrl_cnt (v : Byte) : (s.writeCtrl v).cnt = s.cnt := rfl
@[simp] theorem State.writeCtrl_word (v : Byte) : (s.writeCtrl v).word = s.word := rfl
@[simp] theorem State.writeCtrl_mask (v : Byte) : (s.writeCtrl v).mask = s.mask := rfl
@[simp] theorem State.writeCtrl_cur (v : Byte) : (s.writeCtrl v).cur = s.cur := rfl
@[simp] theorem State.writeCtrl_pend (v : Byte) : (s.writeCtrl v).pend = s.pend := rfl
@[simp] theorem State.writeCtrl_hdrStart (v : Byte) : (s.writeCtrl v).hdrStart = s.hdrStart := rfl
@[simp] theorem State.writeCtrl_status (v : Byte) : (s.writeCtrl v).status = s.status := rfl
@[simp] theorem State.writeCtrl_ctrl (v : Byte) : (s.writeCtrl v).ctrl = v &&& 0x01#8 := rfl
@[simp] theorem State.writeCtrl_inCount (v : Byte) : (s.writeCtrl v).inCount = s.inCount := rfl
@[simp] theorem State.writeCtrl_hdrBytes (v : Byte) : (s.writeCtrl v).hdrBytes = s.hdrBytes := rfl
@[simp] theorem State.writeCtrl_payloadBits (v : Byte) : (s.writeCtrl v).payloadBits = s.payloadBits := rfl
@[simp] theorem State.writeCtrl_sentCount (v : Byte) : (s.writeCtrl v).sentCount = s.sentCount := rfl
@[simp] theorem State.writeCtrl_mem (v : Byte) : (s.writeCtrl v).mem = s.mem := rfl
@[simp] theorem State.writeCtrl_script (v : Byte) : (s.writeCtrl v).script = s.script := rfl
@[simp] theorem State.writeCtrl_seen (v : Byte) : (s.writeCtrl v).seen = s.seen := rfl
@[simp] theorem State.writeCtrl_draws (v : Byte) : (s.writeCtrl v).draws = s.draws := rfl

/-! `tell` -/

@[simp] theorem State.tell_cfg (e : HostEvent) : (s.tell e).cfg = s.cfg := rfl
@[simp] theorem State.tell_freq (e : HostEvent) : (s.tell e).freq = s.freq := rfl
@[simp] theorem State.tell_nodes (e : HostEvent) : (s.tell e).nodes = s.nodes := rfl
@[simp] theorem State.tell_root (e : HostEvent) : (s.tell e).root = s.root := rfl
@[simp] theorem State.tell_leafOf (e : HostEvent) : (s.tell e).leafOf = s.leafOf := rfl
@[simp] theorem State.tell_q (e : HostEvent) : (s.tell e).q = s.q := rfl
@[simp] theorem State.tell_acc (e : HostEvent) : (s.tell e).acc = s.acc := rfl
@[simp] theorem State.tell_cnt (e : HostEvent) : (s.tell e).cnt = s.cnt := rfl
@[simp] theorem State.tell_word (e : HostEvent) : (s.tell e).word = s.word := rfl
@[simp] theorem State.tell_mask (e : HostEvent) : (s.tell e).mask = s.mask := rfl
@[simp] theorem State.tell_cur (e : HostEvent) : (s.tell e).cur = s.cur := rfl
@[simp] theorem State.tell_pend (e : HostEvent) : (s.tell e).pend = s.pend := rfl
@[simp] theorem State.tell_hdrStart (e : HostEvent) : (s.tell e).hdrStart = s.hdrStart := rfl
@[simp] theorem State.tell_status (e : HostEvent) : (s.tell e).status = s.status := rfl
@[simp] theorem State.tell_ctrl (e : HostEvent) : (s.tell e).ctrl = s.ctrl := rfl
@[simp] theorem State.tell_inCount (e : HostEvent) : (s.tell e).inCount = s.inCount := rfl
@[simp] theorem State.tell_hdrBytes (e : HostEvent) : (s.tell e).hdrBytes = s.hdrBytes := rfl
@[simp] theorem State.tell_payloadBits (e : HostEvent) : (s.tell e).payloadBits = s.payloadBits := rfl
@[simp] theorem State.tell_sentCount (e : HostEvent) : (s.tell e).sentCount = s.sentCount := rfl
@[simp] theorem State.tell_mem (e : HostEvent) : (s.tell e).mem = s.mem := rfl
@[simp] theorem State.tell_script (e : HostEvent) : (s.tell e).script = s.script := rfl
@[simp] theorem State.tell_seen (e : HostEvent) : (s.tell e).seen = s.seen ++ [e] := rfl
@[simp] theorem State.tell_draws (e : HostEvent) : (s.tell e).draws = s.draws := rfl

/-! `dropScript` -/

@[simp] theorem State.dropScript_cfg (n : Nat) : (s.dropScript n).cfg = s.cfg := rfl
@[simp] theorem State.dropScript_freq (n : Nat) : (s.dropScript n).freq = s.freq := rfl
@[simp] theorem State.dropScript_nodes (n : Nat) : (s.dropScript n).nodes = s.nodes := rfl
@[simp] theorem State.dropScript_root (n : Nat) : (s.dropScript n).root = s.root := rfl
@[simp] theorem State.dropScript_leafOf (n : Nat) : (s.dropScript n).leafOf = s.leafOf := rfl
@[simp] theorem State.dropScript_q (n : Nat) : (s.dropScript n).q = s.q := rfl
@[simp] theorem State.dropScript_acc (n : Nat) : (s.dropScript n).acc = s.acc := rfl
@[simp] theorem State.dropScript_cnt (n : Nat) : (s.dropScript n).cnt = s.cnt := rfl
@[simp] theorem State.dropScript_word (n : Nat) : (s.dropScript n).word = s.word := rfl
@[simp] theorem State.dropScript_mask (n : Nat) : (s.dropScript n).mask = s.mask := rfl
@[simp] theorem State.dropScript_cur (n : Nat) : (s.dropScript n).cur = s.cur := rfl
@[simp] theorem State.dropScript_pend (n : Nat) : (s.dropScript n).pend = s.pend := rfl
@[simp] theorem State.dropScript_hdrStart (n : Nat) : (s.dropScript n).hdrStart = s.hdrStart := rfl
@[simp] theorem State.dropScript_status (n : Nat) : (s.dropScript n).status = s.status := rfl
@[simp] theorem State.dropScript_ctrl (n : Nat) : (s.dropScript n).ctrl = s.ctrl := rfl
@[simp] theorem State.dropScript_inCount (n : Nat) : (s.dropScript n).inCount = s.inCount := rfl
@[simp] theorem State.dropScript_hdrBytes (n : Nat) : (s.dropScript n).hdrBytes = s.hdrBytes := rfl
@[simp] theorem State.dropScript_payloadBits (n : Nat) : (s.dropScript n).payloadBits = s.payloadBits := rfl
@[simp] theorem State.dropScript_sentCount (n : Nat) : (s.dropScript n).sentCount = s.sentCount := rfl
@[simp] theorem State.dropScript_mem (n : Nat) : (s.dropScript n).mem = s.mem := rfl
@[simp] theorem State.dropScript_script (n : Nat) : (s.dropScript n).script = s.script.drop n := rfl
@[simp] theorem State.dropScript_seen (n : Nat) : (s.dropScript n).seen = s.seen := rfl
@[simp] theorem State.dropScript_draws (n : Nat) : (s.dropScript n).draws = s.draws := rfl

/-! `endSession` -/

@[simp] theorem State.endSession_cfg : (s.endSession).cfg = s.cfg := rfl
@[simp] theorem State.endSession_freq : (s.endSession).freq = Vector.replicate 256 0 := rfl
@[simp] theorem State.endSession_nodes : (s.endSession).nodes = [] := rfl
@[simp] theorem State.endSession_root : (s.endSession).root = Config.freeIndex s.draws := rfl
@[simp] theorem State.endSession_leafOf : (s.endSession).leafOf = Vector.replicate 257 none := rfl
@[simp] theorem State.endSession_q : (s.endSession).q = [] := rfl
@[simp] theorem State.endSession_acc : (s.endSession).acc = 0 := rfl
@[simp] theorem State.endSession_cnt : (s.endSession).cnt = 0 := rfl
@[simp] theorem State.endSession_word : (s.endSession).word = 0 := rfl
@[simp] theorem State.endSession_mask : (s.endSession).mask = 0 := rfl
@[simp] theorem State.endSession_cur : (s.endSession).cur = Config.freeIndex (s.draws + 1) := rfl
@[simp] theorem State.endSession_pend : (s.endSession).pend = [] := rfl
@[simp] theorem State.endSession_hdrStart : (s.endSession).hdrStart = 0 := rfl
@[simp] theorem State.endSession_status : (s.endSession).status = Status.reset := rfl
@[simp] theorem State.endSession_ctrl : (s.endSession).ctrl = s.ctrl := rfl
@[simp] theorem State.endSession_inCount : (s.endSession).inCount = 0 := rfl
@[simp] theorem State.endSession_hdrBytes : (s.endSession).hdrBytes = 0#10 := rfl
@[simp] theorem State.endSession_payloadBits : (s.endSession).payloadBits = 0 := rfl
@[simp] theorem State.endSession_sentCount : (s.endSession).sentCount = 0#9 := rfl
@[simp] theorem State.endSession_mem : (s.endSession).mem = s.mem := rfl
@[simp] theorem State.endSession_script : (s.endSession).script = s.script := rfl
@[simp] theorem State.endSession_seen : (s.endSession).seen = s.seen := rfl
@[simp] theorem State.endSession_draws : (s.endSession).draws = s.draws + 2 := rfl

/-! `resetBlock` -/

@[simp] theorem State.resetBlock_cfg : (s.resetBlock).cfg = s.cfg := rfl
@[simp] theorem State.resetBlock_freq : (s.resetBlock).freq = Vector.replicate 256 0 := rfl
@[simp] theorem State.resetBlock_nodes : (s.resetBlock).nodes = [] := rfl
@[simp] theorem State.resetBlock_root : (s.resetBlock).root = 0#10 := rfl
@[simp] theorem State.resetBlock_leafOf : (s.resetBlock).leafOf = Vector.replicate 257 none := rfl
@[simp] theorem State.resetBlock_q : (s.resetBlock).q = [] := rfl
@[simp] theorem State.resetBlock_acc : (s.resetBlock).acc = 0 := rfl
@[simp] theorem State.resetBlock_cnt : (s.resetBlock).cnt = 0 := rfl
@[simp] theorem State.resetBlock_word : (s.resetBlock).word = 0 := rfl
@[simp] theorem State.resetBlock_mask : (s.resetBlock).mask = 0 := rfl
@[simp] theorem State.resetBlock_cur : (s.resetBlock).cur = 0#10 := rfl
@[simp] theorem State.resetBlock_pend : (s.resetBlock).pend = [] := rfl
@[simp] theorem State.resetBlock_hdrStart : (s.resetBlock).hdrStart = 0 := rfl
@[simp] theorem State.resetBlock_status : (s.resetBlock).status = Status.reset := rfl
@[simp] theorem State.resetBlock_ctrl : (s.resetBlock).ctrl = 0x01#8 := rfl
@[simp] theorem State.resetBlock_inCount : (s.resetBlock).inCount = 0 := rfl
@[simp] theorem State.resetBlock_hdrBytes : (s.resetBlock).hdrBytes = 0#10 := rfl
@[simp] theorem State.resetBlock_payloadBits : (s.resetBlock).payloadBits = 0 := rfl
@[simp] theorem State.resetBlock_sentCount : (s.resetBlock).sentCount = 0#9 := rfl
@[simp] theorem State.resetBlock_mem : (s.resetBlock).mem = s.mem := rfl
@[simp] theorem State.resetBlock_script : (s.resetBlock).script = s.script := rfl
@[simp] theorem State.resetBlock_seen : (s.resetBlock).seen = s.seen := rfl
@[simp] theorem State.resetBlock_draws : (s.resetBlock).draws = s.draws := rfl

/-! `stClear` -/

@[simp] theorem stClear_cfg : (stClear s).cfg = s.cfg := rfl
@[simp] theorem stClear_freq : (stClear s).freq = Vector.replicate 256 0 := rfl
@[simp] theorem stClear_nodes : (stClear s).nodes = s.nodes := rfl
@[simp] theorem stClear_root : (stClear s).root = s.root := rfl
@[simp] theorem stClear_leafOf : (stClear s).leafOf = s.leafOf := rfl
@[simp] theorem stClear_q : (stClear s).q = s.q := rfl
@[simp] theorem stClear_acc : (stClear s).acc = s.acc := rfl
@[simp] theorem stClear_cnt : (stClear s).cnt = s.cnt := rfl
@[simp] theorem stClear_word : (stClear s).word = s.word := rfl
@[simp] theorem stClear_mask : (stClear s).mask = s.mask := rfl
@[simp] theorem stClear_cur : (stClear s).cur = s.cur := rfl
@[simp] theorem stClear_pend : (stClear s).pend = s.pend := rfl
@[simp] theorem stClear_hdrStart : (stClear s).hdrStart = s.hdrStart := rfl
@[simp] theorem stClear_status : (stClear s).status = s.status := rfl
@[simp] theorem stClear_ctrl : (stClear s).ctrl = s.ctrl := rfl
@[simp] theorem stClear_inCount : (stClear s).inCount = 0 := rfl
@[simp] theorem stClear_hdrBytes : (stClear s).hdrBytes = s.hdrBytes := rfl
@[simp] theorem stClear_payloadBits : (stClear s).payloadBits = s.payloadBits := rfl
@[simp] theorem stClear_sentCount : (stClear s).sentCount = s.sentCount := rfl
@[simp] theorem stClear_mem : (stClear s).mem = s.mem := rfl
@[simp] theorem stClear_script : (stClear s).script = s.script := rfl
@[simp] theorem stClear_seen : (stClear s).seen = s.seen := rfl
@[simp] theorem stClear_draws : (stClear s).draws = s.draws := rfl

/-! `bpReset` -/

@[simp] theorem bpReset_cfg : (bpReset s).cfg = s.cfg := rfl
@[simp] theorem bpReset_freq : (bpReset s).freq = s.freq := rfl
@[simp] theorem bpReset_nodes : (bpReset s).nodes = s.nodes := rfl
@[simp] theorem bpReset_root : (bpReset s).root = s.root := rfl
@[simp] theorem bpReset_leafOf : (bpReset s).leafOf = s.leafOf := rfl
@[simp] theorem bpReset_q : (bpReset s).q = s.q := rfl
@[simp] theorem bpReset_acc : (bpReset s).acc = 0 := rfl
@[simp] theorem bpReset_cnt : (bpReset s).cnt = 0 := rfl
@[simp] theorem bpReset_word : (bpReset s).word = s.word := rfl
@[simp] theorem bpReset_mask : (bpReset s).mask = s.mask := rfl
@[simp] theorem bpReset_cur : (bpReset s).cur = s.cur := rfl
@[simp] theorem bpReset_pend : (bpReset s).pend = s.pend := rfl
@[simp] theorem bpReset_hdrStart : (bpReset s).hdrStart = s.hdrStart := rfl
@[simp] theorem bpReset_status : (bpReset s).status = s.status := rfl
@[simp] theorem bpReset_ctrl : (bpReset s).ctrl = s.ctrl := rfl
@[simp] theorem bpReset_inCount : (bpReset s).inCount = s.inCount := rfl
@[simp] theorem bpReset_hdrBytes : (bpReset s).hdrBytes = s.hdrBytes := rfl
@[simp] theorem bpReset_payloadBits : (bpReset s).payloadBits = s.payloadBits := rfl
@[simp] theorem bpReset_sentCount : (bpReset s).sentCount = s.sentCount := rfl
@[simp] theorem bpReset_mem : (bpReset s).mem = s.mem := rfl
@[simp] theorem bpReset_script : (bpReset s).script = s.script := rfl
@[simp] theorem bpReset_seen : (bpReset s).seen = s.seen := rfl
@[simp] theorem bpReset_draws : (bpReset s).draws = s.draws := rfl

/-! `buStart` -/

@[simp] theorem buStart_cfg : (buStart s).cfg = s.cfg := rfl
@[simp] theorem buStart_freq : (buStart s).freq = s.freq := rfl
@[simp] theorem buStart_nodes : (buStart s).nodes = s.nodes := rfl
@[simp] theorem buStart_root : (buStart s).root = s.root := rfl
@[simp] theorem buStart_leafOf : (buStart s).leafOf = s.leafOf := rfl
@[simp] theorem buStart_q : (buStart s).q = s.q := rfl
@[simp] theorem buStart_acc : (buStart s).acc = s.acc := rfl
@[simp] theorem buStart_cnt : (buStart s).cnt = s.cnt := rfl
@[simp] theorem buStart_word : (buStart s).word = 0 := rfl
@[simp] theorem buStart_mask : (buStart s).mask = 0 := rfl
@[simp] theorem buStart_cur : (buStart s).cur = s.root := rfl
@[simp] theorem buStart_pend : (buStart s).pend = s.pend := rfl
@[simp] theorem buStart_hdrStart : (buStart s).hdrStart = s.hdrStart := rfl
@[simp] theorem buStart_status : (buStart s).status = s.status := rfl
@[simp] theorem buStart_ctrl : (buStart s).ctrl = s.ctrl := rfl
@[simp] theorem buStart_inCount : (buStart s).inCount = s.inCount := rfl
@[simp] theorem buStart_hdrBytes : (buStart s).hdrBytes = s.hdrBytes := rfl
@[simp] theorem buStart_payloadBits : (buStart s).payloadBits = s.payloadBits := rfl
@[simp] theorem buStart_sentCount : (buStart s).sentCount = s.sentCount := rfl
@[simp] theorem buStart_mem : (buStart s).mem = s.mem := rfl
@[simp] theorem buStart_script : (buStart s).script = s.script := rfl
@[simp] theorem buStart_seen : (buStart s).seen = s.seen := rfl
@[simp] theorem buStart_draws : (buStart s).draws = s.draws := rfl

/-! `decStart` -/

@[simp] theorem decStart_cfg : (decStart s).cfg = s.cfg := rfl
@[simp] theorem decStart_freq : (decStart s).freq = s.freq := rfl
@[simp] theorem decStart_nodes : (decStart s).nodes = s.nodes := rfl
@[simp] theorem decStart_root : (decStart s).root = s.root := rfl
@[simp] theorem decStart_leafOf : (decStart s).leafOf = s.leafOf := rfl
@[simp] theorem decStart_q : (decStart s).q = s.q := rfl
@[simp] theorem decStart_acc : (decStart s).acc = s.acc := rfl
@[simp] theorem decStart_cnt : (decStart s).cnt = s.cnt := rfl
@[simp] theorem decStart_word : (decStart s).word = s.word := rfl
@[simp] theorem decStart_mask : (decStart s).mask = s.mask := rfl
@[simp] theorem decStart_cur : (decStart s).cur = s.cur := rfl
@[simp] theorem decStart_pend : (decStart s).pend = s.pend := rfl
@[simp] theorem decStart_hdrStart : (decStart s).hdrStart = s.mem.pos := rfl
@[simp] theorem decStart_status : (decStart s).status = { s.status with mode := .decoder, phase := .parsingTree } := rfl
@[simp] theorem decStart_ctrl : (decStart s).ctrl = s.ctrl := rfl
@[simp] theorem decStart_inCount : (decStart s).inCount = s.inCount := rfl
@[simp] theorem decStart_hdrBytes : (decStart s).hdrBytes = s.hdrBytes := rfl
@[simp] theorem decStart_payloadBits : (decStart s).payloadBits = s.payloadBits := rfl
@[simp] theorem decStart_sentCount : (decStart s).sentCount = 0#9 := rfl
@[simp] theorem decStart_mem : (decStart s).mem = s.mem := rfl
@[simp] theorem decStart_script : (decStart s).script = s.script := rfl
@[simp] theorem decStart_seen : (decStart s).seen = s.seen := rfl
@[simp] theorem decStart_draws : (decStart s).draws = s.draws := rfl

end Sys2Proof.Machine
end

