-- ==== Sys2Proof/Laws/Memory.lean ====
section
/-! SUPPORT. The streams: what each stream operation does, and that each keeps the form `Memory.wf` (20_memory.md R61). -/

namespace Sys2Proof

theorem Config.WB_pos (c : Config) : 0 < c.WB := by
  have := c.W_legal
  unfold Config.WB
  omega

theorem Config.W_eq (c : Config) : c.W = 8 * c.WB := by
  have := c.W_legal
  unfold Config.WB
  omega

end Sys2Proof

namespace Sys2Proof.Machine

theorem Memory.wf_iff (m : Memory) : m.wf = true ↔ m.pos ≤ m.data.length := by simp [Memory.wf]

theorem Memory.rest_length (m : Memory) : m.rest.length = m.data.length - m.pos := by simp [Memory.rest]

theorem Memory.rest_eq_nil_iff (m : Memory) : m.rest = [] ↔ m.data.length ≤ m.pos := by
  simp [Memory.rest]

theorem State.resetWith_wf (c : Config) : (State.resetWith c).mem.wf = true := rfl

/-- Everything InRead can do (20_memory.md R62). -/
theorem State.inRead_cases (s : State) :
    (s.mem.rest = [] ∧ s.inRead = (none, s)) ∨
    (∃ b rest, s.mem.rest = b :: rest ∧ s.mem.pos < s.mem.data.length ∧
      s.inRead = (some b, { s with mem := { s.mem with pos := s.mem.pos + 1 } })) := by
  unfold State.inRead
  cases h : s.mem.rest with
  | nil => exact .inl ⟨rfl, rfl⟩
  | cons b rest =>
    refine .inr ⟨b, rest, rfl, ?_, rfl⟩
    have := s.mem.rest_length
    simp [h] at this
    omega

/-- The bytes left after one has been read. -/
theorem Memory.rest_succ {m : Memory} {b : Byte} {rest : List Byte} (h : m.rest = b :: rest) :
    Memory.rest { m with pos := m.pos + 1 } = rest := by
  simp only [Memory.rest] at *
  rw [← List.drop_drop, h, List.drop_succ_cons, List.drop_zero]

/-- Everything InReadWord can do (20_memory.md R63). -/
theorem State.inReadWord_cases (s : State) :
    (s.cfg.WB ≤ s.mem.rest.length ∧ s.inReadWord =
      (some (bytesWord s.cfg (s.mem.rest.take s.cfg.WB)), { s with mem := { s.mem with pos := s.mem.pos + s.cfg.WB } })) ∨
    (s.mem.rest.length < s.cfg.WB ∧ s.inReadWord = (none, { s with mem := { s.mem with pos := s.mem.data.length } })) := by
  unfold State.inReadWord
  by_cases h : s.cfg.WB ≤ s.mem.rest.length
  · exact .inl ⟨h, if_pos h⟩
  · exact .inr ⟨by omega, if_neg h⟩

theorem State.inRead_wf (s : State) (h : s.mem.wf = true) : (s.inRead).2.mem.wf = true := by
  rw [Memory.wf_iff] at *
  obtain ⟨-, e⟩ | ⟨b, rest, -, hlt, e⟩ := s.inRead_cases <;> rw [e]
  · exact h
  · exact hlt

theorem State.inReadWord_wf (s : State) (h : s.mem.wf = true) : (s.inReadWord).2.mem.wf = true := by
  rw [Memory.wf_iff] at *
  obtain ⟨hle, e⟩ | ⟨-, e⟩ := s.inReadWord_cases <;> rw [e]
  · rw [Memory.rest_length] at hle
    have := s.cfg.WB_pos
    show s.mem.pos + s.cfg.WB ≤ s.mem.data.length
    omega

theorem State.outWrite_wf (s : State) (bytes : List Byte) (h : s.mem.wf = true) : (s.outWrite bytes).mem.wf = true := h

theorem State.outWriteWord_wf (s : State) (w : Nat) (h : s.mem.wf = true) : (s.outWriteWord w).mem.wf = true := h

theorem State.attachIn_wf (s : State) (bytes : List Byte) : (s.attachIn bytes).mem.wf = true := by
  simp [Memory.wf]

theorem State.rewind_wf (s : State) : s.rewind.mem.wf = true := by simp [Memory.wf]

theorem State.attachOut_wf (s : State) (h : s.mem.wf = true) : s.attachOut.mem.wf = true := h

/-- OUT after a write is longer, never changed (20_memory.md R64). -/
theorem State.outWrite_prefix (s : State) (bytes : List Byte) : s.mem.out <+: (s.outWrite bytes).mem.out :=
  ⟨bytes, rfl⟩

end Sys2Proof.Machine
end

