-- ==== Sys2Proof/Laws/Accesses.lean ====
section
/-! SUPPORT. The stream accesses of a command: what a list of them does, said once. -/

namespace Sys2Proof.Machine

@[simp] theorem Memory.perform_nil (m : Memory) : m.perform [] = m := rfl

@[simp] theorem Memory.perform_cons (m : Memory) (a : Access) (l : List Access) :
    m.perform (a :: l) = (m.access a).perform l := rfl

@[simp] theorem Memory.perform_append (m : Memory) (l k : List Access) : m.perform (l ++ k) = (m.perform l).perform k :=
  List.foldl_append

/-- Reads move the cursor and nothing else. -/
theorem Memory.perform_reads (m : Memory) (n : Nat) :
    m.perform (List.replicate n .read) = { m with pos := m.pos + n } := by
  induction n generalizing m with
  | zero => rfl
  | succ n ih =>
    simp only [List.replicate_succ, Memory.perform_cons, ih, Memory.access]
    rw [Nat.add_right_comm, Nat.add_assoc]

/-- Writes append their bytes to OUT and do nothing else. -/
theorem Memory.perform_writes (m : Memory) (bytes : List Byte) :
    m.perform (bytes.map .write) = { m with out := m.out ++ bytes } := by
  induction bytes generalizing m with
  | nil => simp
  | cons b rest ih => simp [ih, Memory.access]

/-- Any list of accesses leaves IN's bytes alone, never moves the cursor back and only appends to OUT. -/
theorem Memory.perform_grows (m : Memory) (l : List Access) :
    (m.perform l).data = m.data ∧ m.pos ≤ (m.perform l).pos ∧ m.out <+: (m.perform l).out := by
  induction l generalizing m with
  | nil => exact ⟨rfl, Nat.le_refl _, List.prefix_refl _⟩
  | cons a l ih =>
    obtain ⟨h1, h2, h3⟩ := ih (m.access a)
    cases a with
    | read => exact ⟨h1, Nat.le_of_succ_le h2, h3⟩
    | write b => exact ⟨h1, h2, (List.prefix_append m.out [b]).trans h3⟩

/-- What a prefix of some accesses leaves lies between the start and what all of them leave. -/
theorem Memory.perform_take (m : Memory) (l : List Access) (k : Nat) :
    (m.perform (l.take k)).pos ≤ (m.perform l).pos ∧ (m.perform (l.take k)).out <+: (m.perform l).out := by
  obtain ⟨-, h2, h3⟩ := Memory.perform_grows (m.perform (l.take k)) (l.drop k)
  rw [← Memory.perform_append, List.take_append_drop] at h2 h3
  exact ⟨h2, h3⟩

/-- The accesses of a stretch lead from its first state to its last. -/
theorem perform_stretch {s t : State} (hd : t.mem.data = s.mem.data) (hp : s.mem.pos ≤ t.mem.pos)
    (ho : s.mem.out <+: t.mem.out) : s.mem.perform (stretch s t) = t.mem := by
  obtain ⟨tail, ho⟩ := ho
  rw [stretch, Memory.perform_append, Memory.perform_reads, Memory.perform_writes, ← ho, List.drop_left, ← hd,
    Nat.add_sub_cancel' hp, ho]

end Sys2Proof.Machine
end

