-- ==== Sys2Proof/Laws/Ops.lean ====
section
/-! SUPPORT. The shared operations: what each can do, said once. -/

namespace Sys2Proof.Machine

variable {α β : Type}

/-! ### Runs -/

@[simp] theorem Run.bind_go (a : α) (s : State) (k : α → State → Run β) : (Run.go a s).bind k = k a s := rfl

@[simp] theorem Run.bind_raised (s : State) (k : α → State → Run β) : (Run.raised s : Run α).bind k = .raised s := rfl

@[simp] theorem Run.bind_fault (f : Fault) (k : α → State → Run β) : (Run.fault f : Run α).bind k = .fault f := rfl

@[simp] theorem Run.outcome_go (a : α) (s : State) : (Run.go a s).outcome = .next s := rfl

@[simp] theorem Run.outcome_raised (s : State) : (Run.raised s : Run α).outcome = .next s := rfl

@[simp] theorem Run.outcome_fault (f : Fault) : (Run.fault f : Run α).outcome = .fault f := rfl

@[simp] theorem fail_eq (e : Result) (s : State) : (fail e s : Run α) = .raised (s.raise e) := rfl

/-- From a sequence that goes on, each part has gone on. -/
theorem Run.bind_eq_go {r : Run α} {k : α → State → Run β} {b : β} {t : State} (h : r.bind k = .go b t) :
    ∃ a s, r = .go a s ∧ k a s = .go b t := by
  cases r with
  | go a s => exact ⟨a, s, rfl, h⟩
  | raised s => cases h
  | fault f => cases h

/-- A sequence that has raised raised in its first part or in its second. -/
theorem Run.bind_eq_raised {r : Run α} {k : α → State → Run β} {t : State} (h : r.bind k = .raised t) :
    r = .raised t ∨ ∃ a s, r = .go a s ∧ k a s = .raised t := by
  cases r with
  | go a s => exact .inr ⟨a, s, rfl, h⟩
  | raised s => cases h; exact .inl rfl
  | fault f => cases h

/-- A run gives a next state exactly when it has gone on or raised. -/
theorem Run.outcome_eq_next {r : Run α} {t : State} (h : r.outcome = .next t) : (∃ a, r = .go a t) ∨ r = .raised t := by
  cases r with
  | go a s => cases h; exact .inl ⟨a, rfl⟩
  | raised s => cases h; exact .inr rfl
  | fault f => cases h

/-- `P` holds of a run's state, whether it goes on or has raised. -/
def Run.All (P : State → Prop) (r : Run α) : Prop :=
  match r with
  | .go _ s => P s
  | .raised s => P s
  | .fault _ => True

@[simp] theorem Run.All_go (P : State → Prop) (a : α) (s : State) : (Run.go a s).All P ↔ P s := Iff.rfl

@[simp] theorem Run.All_raised (P : State → Prop) (s : State) : (Run.raised s : Run α).All P ↔ P s := Iff.rfl

@[simp] theorem Run.All_fault (P : State → Prop) (f : Fault) : (Run.fault f : Run α).All P := trivial

/-- A property that each part of a sequence keeps holds of the whole. -/
theorem Run.All.bind {P : State → Prop} {r : Run α} {k : α → State → Run β} (hr : r.All P)
    (hk : ∀ a s, P s → (k a s).All P) : (r.bind k).All P := by
  cases r with
  | go a s => exact hk a s hr
  | raised s => exact hr
  | fault f => trivial

/-- What holds of a run's state holds of the next state it gives. -/
theorem Run.All.of_next {P : State → Prop} {r : Run α} {t : State} (hr : r.All P) (h : r.outcome = .next t) : P t := by
  obtain ⟨a, rfl⟩ | rfl := Run.outcome_eq_next h
  · exact hr
  · exact hr

/-! ### Admission -/

/-- Everything a command can answer with: its run's outcome where STATE admits it, else the refusal (10_state.md R45). -/
theorem admitted_cases (ok : Bool) (s : State) (run : State → Run Unit) :
    (ok = true ∧ admitted ok s run = (run s).outcome) ∨ (ok = false ∧ admitted ok s run = .next s.refuseBadState) := by
  cases ok
  · exact .inr ⟨rfl, rfl⟩
  · exact .inl ⟨rfl, rfl⟩

/-- Everything a header token can answer with: its run's outcome in a parse, else the refusal (log 12). -/
theorem asToken_cases (s : State) (run : State → Run Unit) :
    (s.status.phase = .parsingTree ∧ asToken s run = (run s).outcome) ∨
    (s.status.phase ≠ .parsingTree ∧ asToken s run = .next s.refuseIllegal) := by
  unfold asToken
  by_cases h : s.status.phase = .parsingTree
  · exact .inl ⟨h, if_pos h⟩
  · exact .inr ⟨h, if_neg h⟩

/-! ### The arena -/

/-- Everything a node access can do (20_memory.md R76). -/
theorem readNode_cases (i : Index) (s : State) :
    (∃ n, s.nodes[i.toNat]? = some n ∧ readNode i s = .go n s) ∨
    (s.nodes[i.toNat]? = none ∧ readNode i s = .fault (.noSuchNode i)) := by
  unfold readNode State.node?
  cases h : s.nodes[i.toNat]? with
  | none => exact .inr ⟨rfl, rfl⟩
  | some n => exact .inl ⟨n, rfl, rfl⟩

theorem readNode_eq {i : Index} {s : State} {n : Node} (h : s.node? i = some n) : readNode i s = .go n s := by
  simp [readNode, h]

/-- A node access changes nothing. -/
theorem readNode_eq_go {i : Index} {s t : State} {n : Node} (h : readNode i s = .go n t) :
    t = s ∧ s.node? i = some n := by
  unfold readNode at h
  cases h' : s.node? i with
  | none => simp [h'] at h
  | some m => simp [h'] at h; exact ⟨h.2.symm, by rw [h.1]⟩

/-- A sequence that starts with a node access and goes on found the entry and went on from there. -/
theorem readNode_bind_eq_go {i : Index} {s t : State} {k : Node → State → Run β} {b : β}
    (h : (readNode i s).bind k = .go b t) : ∃ n, s.node? i = some n ∧ k n s = .go b t := by
  obtain ⟨n, u, hu, hk⟩ := Run.bind_eq_go h
  obtain ⟨e, hn⟩ := readNode_eq_go hu
  exact ⟨n, hn, e ▸ hk⟩

/-- A sequence that starts with a node access and raises found the entry and raised after it. -/
theorem readNode_bind_eq_raised {i : Index} {s t : State} {k : Node → State → Run β}
    (h : (readNode i s).bind k = .raised t) : ∃ n, s.node? i = some n ∧ k n s = .raised t := by
  obtain e | ⟨n, u, hu, hk⟩ := Run.bind_eq_raised h
  · obtain ⟨n, -, e'⟩ | ⟨-, e'⟩ := readNode_cases i s <;> rw [e'] at e <;> cases e
  · obtain ⟨e, hn⟩ := readNode_eq_go hu
    exact ⟨n, hn, e ▸ hk⟩

@[simp] theorem State.alloc_nodeN (s : State) (n : Node) : (s.alloc n).nodeN = s.nodeN + 1 := by
  simp [State.nodeN]

@[simp] theorem State.setNode_nodeN (s : State) (i : Index) (n : Node) : (s.setNode i n).nodeN = s.nodeN := by
  simp [State.nodeN]

/-- The entry allocated is found at the next index, while the arena is no longer than indices reach (10_state.md R27). -/
theorem State.alloc_node?_next (s : State) (n : Node) (h : s.nodeN < 1024) : (s.alloc n).node? s.nextIndex = some n := by
  have e : s.nextIndex.toNat = s.nodes.length := by
    simp only [State.nextIndex, State.nodeN, BitVec.toNat_ofNat] at *
    omega
  simp [State.node?, e]

/-- An allocation leaves the entries in use as they are. -/
theorem State.alloc_node?_old (s : State) (n m : Node) (i : Index) (h : s.node? i = some m) :
    (s.alloc n).node? i = some m := by
  have hlt : i.toNat < s.nodes.length := (List.getElem?_eq_some_iff.mp h).1
  simp only [State.node?, State.alloc_nodes] at *
  rw [List.getElem?_append_left hlt, h]

/-- A write to an entry is what is read there. -/
theorem State.setNode_node?_same (s : State) (i : Index) (n m : Node) (h : s.node? i = some m) :
    (s.setNode i n).node? i = some n := by
  have hlt : i.toNat < s.nodes.length := (List.getElem?_eq_some_iff.mp h).1
  simp [State.node?, hlt]

/-- A write to an entry leaves every other alone. -/
theorem State.setNode_node?_other (s : State) (i j : Index) (n : Node) (h : i ≠ j) :
    (s.setNode i n).node? j = s.node? j := by
  have : i.toNat ≠ j.toNat := fun e => h (BitVec.eq_of_toNat_eq e)
  simp [State.node?, List.getElem?_set_ne this]

end Sys2Proof.Machine
end

