-- ==== Sys2Proof/Laws/Micro.lean ====
section
/-! SUPPORT. The micro-operations: what each can do and what it leaves unchanged, said once. -/

namespace Sys2Proof.Machine

/-! ### Symbol Table and tally -/

/-- Everything ST.COUNT can do (40_tree_builder.md R121). -/
theorem stCount_cases (b : Byte) (s : State) :
    (s.inCount = s.cfg.maxCount ∧ stCount b s = .raised (s.raise .counterOverflow)) ∨
    (s.inCount ≠ s.cfg.maxCount ∧ stCount b s =
      .go () { s with freq := s.freq.set b.toNat (s.freq[b.toNat] + 1), inCount := s.inCount + 1 }) := by
  unfold stCount
  by_cases h : s.inCount = s.cfg.maxCount
  · exact .inl ⟨h, if_pos h⟩
  · exact .inr ⟨h, if_neg h⟩

/-- A tally that goes on writes the counters and moves the cursor, nothing else. -/
theorem tally_frame {n : Nat} {s t : State} (h : tally n s = .go () t) :
    t = { s with freq := t.freq, inCount := t.inCount, mem := { s.mem with pos := t.mem.pos } } := by
  induction n generalizing s with
  | zero => cases h; rfl
  | succ n ih =>
    unfold tally at h
    obtain ⟨-, e⟩ | ⟨b, rest, -, -, e⟩ := s.inRead_cases
    · rw [e] at h; cases h; rfl
    · rw [e] at h
      obtain ⟨_, u, hu, ht⟩ := Run.bind_eq_go h
      have key := ih ht
      obtain ⟨-, e'⟩ | ⟨-, e'⟩ := stCount_cases b { s with mem := { s.mem with pos := s.mem.pos + 1 } }
      · rw [e'] at hu; cases hu
      · rw [e'] at hu; cases hu
        rw [key]

/-! ### Tree Builder -/

/-- What a turn of TB.INIT changes. -/
theorem tbLeaf_frame (symbol : Fin 257) (s : State) :
    tbLeaf symbol s = { s with
      nodes := (tbLeaf symbol s).nodes, leafOf := (tbLeaf symbol s).leafOf, q := (tbLeaf symbol s).q } := by
  unfold tbLeaf
  split <;> rfl

/-- What TB.INIT changes. -/
theorem tbInit_frame (s : State) :
    tbInit s = { s with nodes := (tbInit s).nodes, leafOf := (tbInit s).leafOf, q := (tbInit s).q } := by
  have key : ∀ (l : List (Fin 257)) (u : State), ∃ ns lf q',
      l.foldl (fun t symbol => tbLeaf symbol t) u = { u with nodes := ns, leafOf := lf, q := q' } := by
    intro l
    induction l with
    | nil => intro u; exact ⟨u.nodes, u.leafOf, u.q, rfl⟩
    | cons a l ih =>
      intro u
      obtain ⟨ns, lf, q', e⟩ := ih (tbLeaf a u)
      exact ⟨ns, lf, q', by rw [List.foldl_cons, e, tbLeaf_frame a u]⟩
  obtain ⟨ns, lf, q', e⟩ := key (List.finRange 257) { s with q := [] }
  unfold tbInit
  rw [e]

/-- Everything `remove_min` can do (40_tree_builder.md R125). -/
theorem removeMin_cases (s : State) :
    (s.q = [] ∧ removeMin s = .fault .queueEmpty) ∨
    (∃ i others, s.q = i :: others ∧
      removeMin s = .go (s.least i others) { s with q := s.q.erase (s.least i others) }) := by
  unfold removeMin
  cases h : s.q with
  | nil => exact .inl ⟨rfl, rfl⟩
  | cons i others => exact .inr ⟨i, others, rfl, by simp⟩

/-- What TB.MERGE changes: one node more, and Q. -/
theorem tbMerge_frame {s t : State} (h : tbMerge s = .go () t) :
    ∃ a b na nb, s.node? a = some na ∧ s.node? b = some nb ∧
      t = { s with
        nodes := s.nodes ++ [⟨.internal (some a) (some b), na.freq + nb.freq, 0#9, 0#256⟩]
        q := t.q } := by
  unfold tbMerge at h
  obtain ⟨a, s1, h1, h⟩ := Run.bind_eq_go h
  obtain ⟨b, s2, h2, h⟩ := Run.bind_eq_go h
  obtain ⟨na, ha, h⟩ := readNode_bind_eq_go h
  obtain ⟨nb, hb, h⟩ := readNode_bind_eq_go h
  obtain ⟨-, e1⟩ | ⟨i, o, -, e1⟩ := removeMin_cases s
  · rw [e1] at h1; cases h1
  · rw [e1] at h1; cases h1
    obtain ⟨-, e2⟩ | ⟨i', o', -, e2⟩ := removeMin_cases { s with q := s.q.erase (s.least i o) }
    · rw [e2] at h2; cases h2
    · rw [e2] at h2; cases h2; cases h
      exact ⟨_, _, na, nb, ha, hb, rfl⟩

/-- What the merges change. -/
theorem tbMergeAll_frame {n : Nat} {s t : State} (h : tbMergeAll n s = .go () t) :
    t = { s with nodes := t.nodes, q := t.q } := by
  induction n generalizing s with
  | zero => cases h; rfl
  | succ n ih =>
    unfold tbMergeAll at h
    split at h
    · obtain ⟨_, u, hu, ht⟩ := Run.bind_eq_go h
      obtain ⟨a, b, na, nb, -, -, e⟩ := tbMerge_frame hu
      have := ih ht
      rw [this, e]
    · cases h; rfl

/-- What TB.BUILD changes (40_tree_builder.md R127). -/
theorem tbBuild_frame {s t : State} (h : tbBuild s = .go () t) :
    t = { s with nodes := t.nodes, leafOf := t.leafOf, q := t.q, root := t.root } := by
  unfold tbBuild at h
  obtain ⟨_, u, hu, ht⟩ := Run.bind_eq_go h
  have e := tbMergeAll_frame hu
  have e0 := tbInit_frame s
  split at ht
  · cases ht
    rw [e, e0]
  · cases ht

/-! ### Code Assigner and export -/

/-- What `visit` changes: the code fields of nodes and the two totals (41_code_assigner.md R141). -/
theorem caVisit_frame {fuel : Nat} {i : Index} {len val : Nat} {s t : State} (h : caVisit fuel i len val s = .go () t) :
    t = { s with nodes := t.nodes, hdrBytes := t.hdrBytes, payloadBits := t.payloadBits } ∧
    t.nodes.map (fun n => (n.kind, n.freq)) = s.nodes.map (fun n => (n.kind, n.freq)) := by
  induction fuel generalizing i len val s t with
  | zero => cases h
  | succ fuel ih =>
    unfold caVisit at h
    obtain ⟨n, hn, h⟩ := readNode_bind_eq_go h
    have hset : (s.nodes.set i.toNat { n with codeLen := BitVec.ofNat 9 len, codeVal := BitVec.ofNat 256 val }).map
        (fun n => (n.kind, n.freq)) = s.nodes.map (fun n => (n.kind, n.freq)) := by
      rw [List.map_set]
      apply List.ext_getElem?
      intro k
      obtain ⟨hlt, hget⟩ := List.getElem?_eq_some_iff.mp hn
      by_cases hk : i.toNat = k
      · subst hk
        simp [hlt, hget]
      · simp [List.getElem?_set_ne hk]
    simp only at h
    split at h
    · cases h; exact ⟨rfl, hset⟩
    · obtain ⟨_, v, hv, h⟩ := Run.bind_eq_go h
      obtain ⟨e1, m1⟩ := ih hv
      obtain ⟨e2, m2⟩ := ih h
      refine ⟨?_, m2.trans (m1.trans hset)⟩
      rw [e2, e1]
      rfl
    · cases h

/-- What `emit` changes: OUT grows (42_tree_codec.md R151). -/
theorem tcEmit_frame {fuel : Nat} {i : Index} {s t : State} (h : tcEmit fuel i s = .go () t) :
    ∃ bytes, t = s.outWrite bytes := by
  induction fuel generalizing i s t with
  | zero => cases h
  | succ fuel ih =>
    unfold tcEmit at h
    obtain ⟨n, -, h⟩ := readNode_bind_eq_go h
    split at h
    · split at h
      · cases h; exact ⟨_, rfl⟩
      · cases h; exact ⟨_, rfl⟩
    · obtain ⟨_, v, hv, h⟩ := Run.bind_eq_go h
      obtain ⟨b1, rfl⟩ := ih hv
      obtain ⟨b2, rfl⟩ := ih h
      exact ⟨[markerN] ++ b1 ++ b2, by simp [State.outWrite]⟩
    · cases h

/-! ### Import -/

/-- What a returned sub-tree changes (42_tree_codec.md R153). -/
theorem tcReturn_frame {fs : List Frame} {j : Index} {s t : State} (h : tcReturn fs j s = .go () t) :
    t = { s with nodes := t.nodes, root := t.root, pend := t.pend } ∧ t.nodes.length = s.nodes.length := by
  induction fs generalizing j s with
  | nil => cases h; exact ⟨rfl, rfl⟩
  | cons f fs ih =>
    unfold tcReturn at h
    obtain ⟨n, -, h⟩ := readNode_bind_eq_go h
    simp only at h
    split at h
    · cases h; exact ⟨rfl, by simp⟩
    · obtain ⟨e, m⟩ := ih h
      refine ⟨?_, by simpa using m⟩
      rw [e]
      rfl

/-- A returned sub-tree raises no error. -/
theorem tcReturn_not_raised {fs : List Frame} {j : Index} {s t : State} : tcReturn fs j s ≠ .raised t := by
  induction fs generalizing j s with
  | nil => intro h; cases h
  | cons f fs ih =>
    intro h
    unfold tcReturn at h
    obtain ⟨n, -, h⟩ := readNode_bind_eq_raised h
    simp only at h
    split at h
    · cases h
    · exact ih h

/-- What a header token changes when it goes on (42_tree_codec.md R153): one node more, and the parse's own registers. -/
theorem runToken_frame {i : Instr} {s t : State} (h : runToken i s = .go () t) :
    t = { s with nodes := t.nodes, root := t.root, pend := t.pend, sentCount := t.sentCount } ∧
    t.nodes.length = s.nodes.length + 1 := by
  have leaf : ∀ {symbol : Symbol} {s t : State}, tokenLeaf symbol s = .go () t →
      t = { s with nodes := t.nodes, root := t.root, pend := t.pend } ∧ t.nodes.length = s.nodes.length + 1 := by
    intro symbol s t h
    unfold tokenLeaf at h
    split at h
    · cases h
    · obtain ⟨e, m⟩ := tcReturn_frame h
      refine ⟨?_, by simpa using m⟩
      rw [e]
      rfl
  cases i with
  | tokN =>
    simp only [runToken, tokenN] at h
    split at h
    · cases h
    · cases h; exact ⟨rfl, by simp⟩
  | tokC symbol =>
    obtain ⟨e, m⟩ := leaf h
    exact ⟨by rw [e], m⟩
  | tokZ =>
    simp only [runToken, tokenZ] at h
    split at h
    · cases h
    · obtain ⟨e, m⟩ := leaf h
      exact ⟨by rw [e], m⟩
  | _ => cases h

/-- The token instructions are the parse's tokens (log 12). -/
theorem exec_token_eq_runToken (i : Instr) (s : State) (hi : i.isToken = true) (hs : s.status.phase = .parsingTree) :
    exec i s = (runToken i s).outcome := by
  cases i with
  | tokN => simp [exec, execTokN, asToken, hs, runToken]
  | tokC symbol => simp [exec, execTokC, asToken, hs, runToken]
  | tokZ => simp [exec, execTokZ, asToken, hs, runToken]
  | _ => cases hi

/-- The token decoder gives header tokens only. -/
theorem decodeToken_isToken {bytes rest : List Byte} {i : Instr} (h : decodeToken bytes = .ok (i, rest)) :
    i.isToken = true := by
  unfold decodeToken at h
  split at h
  · cases h
  · split at h
    · cases h; rfl
    · split at h
      · cases h; rfl
      · split at h
        · split at h <;> cases h
          rfl
        · cases h

/-! ### Packer and unpacker -/

/-- BP.PUSHBIT writes ACC, CNT and perhaps OUT (43_bit_packer_unpacker.md R172). -/
theorem bpPushBit_frame (b : Bool) (s : State) :
    ∃ a c bytes, bpPushBit b s = { s.outWrite bytes with acc := a, cnt := c } := by
  unfold bpPushBit
  split
  · exact ⟨0, 0, _, rfl⟩
  · exact ⟨2 * s.acc + b.toNat, s.cnt + 1, [], by simp [State.outWrite]⟩

/-- BP.PUSH writes ACC, CNT and perhaps OUT (43_bit_packer_unpacker.md R173). -/
theorem bpPush_frame (n : Nat) (val : BitVec 256) (s : State) :
    ∃ a c bytes, bpPush n val s = { s.outWrite bytes with acc := a, cnt := c } := by
  induction n generalizing s with
  | zero => exact ⟨s.acc, s.cnt, [], by simp [bpPush, State.outWrite]⟩
  | succ n ih =>
    obtain ⟨a, c, b1, e⟩ := bpPushBit_frame (val.getLsbD n) s
    obtain ⟨a', c', b2, e'⟩ := ih (bpPushBit (val.getLsbD n) s)
    refine ⟨a', c', b1 ++ b2, ?_⟩
    rw [bpPush, e', e]
    simp [State.outWrite]

/-- BP.FLUSH leaves ACC and CNT 0 where CNT counts bits, and perhaps writes a word (43_bit_packer_unpacker.md R174). -/
theorem bpFlush_cases (s : State) :
    (s.cnt = 0 ∧ bpFlush s = s) ∨
    (0 < s.cnt ∧ bpFlush s = bpReset (s.outWriteWord ((s.acc <<< (s.cfg.W - s.cnt)) % 2 ^ s.cfg.W))) := by
  unfold bpFlush
  by_cases h : 0 < s.cnt
  · exact .inr ⟨h, if_pos h⟩
  · exact .inl ⟨by omega, if_neg h⟩

/-- Everything BU.LOAD can do (43_bit_packer_unpacker.md R177). -/
theorem buLoad_cases (s : State) :
    (s.cfg.WB ≤ s.mem.rest.length ∧ buLoad s = .go () { s with
      mem := { s.mem with pos := s.mem.pos + s.cfg.WB }
      word := bytesWord s.cfg (s.mem.rest.take s.cfg.WB)
      mask := 1 <<< (s.cfg.W - 1) }) ∨
    (s.mem.rest.length < s.cfg.WB ∧ buLoad s =
      .raised (State.raise .truncatedStream { s with mem := { s.mem with pos := s.mem.data.length } })) := by
  unfold buLoad
  obtain ⟨h, e⟩ | ⟨h, e⟩ := s.inReadWord_cases
  · exact .inl ⟨h, by rw [e]⟩
  · exact .inr ⟨h, by rw [e]; rfl⟩

/-- What BU.STEP's arrival changes. -/
theorem buArrive_cases (n : Node) (s : State) :
    ∃ stop c bytes, buArrive n s = .go stop { s.outWrite bytes with cur := c } := by
  unfold buArrive
  split
  · split
    · exact ⟨true, s.cur, [], by simp [State.outWrite]⟩
    · exact ⟨_, _, _, rfl⟩
  · exact ⟨false, s.cur, [], by simp [State.outWrite]⟩

/-- What BU.STEP changes when it goes on (43_bit_packer_unpacker.md R178). -/
theorem buStep_frame {s t : State} {stop : Bool} (h : buStep s = .go stop t) :
    ∃ c bytes, t = { s.outWrite bytes with mask := s.mask >>> 1, cur := c } := by
  unfold buStep at h
  obtain ⟨n, -, h⟩ := readNode_bind_eq_go h
  simp only at h
  split at h
  · cases h
  · split at h
    · cases h
    · obtain ⟨m, -, h⟩ := readNode_bind_eq_go h
      obtain ⟨_, c, bytes, e⟩ := buArrive_cases m _
      rw [e] at h
      cases h
      exact ⟨c, bytes, rfl⟩

/-- BU.STEP raises no error (43_bit_packer_unpacker.md R178: "Exceptions: none"). -/
theorem buStep_not_raised {s t : State} : buStep s ≠ .raised t := by
  intro h
  unfold buStep at h
  obtain ⟨n, -, h⟩ := readNode_bind_eq_raised h
  simp only at h
  split at h
  · cases h
  · split at h
    · cases h
    · obtain ⟨m, -, h⟩ := readNode_bind_eq_raised h
      obtain ⟨_, c, bytes, e⟩ := buArrive_cases m _
      rw [e] at h
      cases h

end Sys2Proof.Machine
end

