-- ==== Sys2Proof/Laws/PerInstr.lean ====
section
/-! SUPPORT. What holds of every instruction as syntax, one lemma for each constructor. -/

namespace Sys2Proof.Laws.EncodedShape

/-- An instruction is one byte, or two for the token `C`; its first byte alone tells its kind and so its length
(30_encoding.md R90, R93). -/
def Statement (i : Instr) : Prop :=
  ∃ b tail, encode i = b :: tail ∧ tail.length ≤ 1 ∧ (tail ≠ [] ↔ b = markerC) ∧
    (i.isToken = true ↔ b = markerN ∨ b = markerC ∨ b = markerZ)

theorem encBuild : Statement .encBuild := ⟨0x01#8, [], rfl, by decide, by decide, by decide⟩

theorem encExport : Statement .encExport := ⟨0x02#8, [], rfl, by decide, by decide, by decide⟩

theorem encEncode : Statement .encEncode := ⟨0x03#8, [], rfl, by decide, by decide, by decide⟩

theorem decBuild : Statement .decBuild := ⟨0x11#8, [], rfl, by decide, by decide, by decide⟩

theorem decDecode : Statement .decDecode := ⟨0x12#8, [], rfl, by decide, by decide, by decide⟩

theorem sessionEnd : Statement .sessionEnd := ⟨0x20#8, [], rfl, by decide, by decide, by decide⟩

theorem tokN : Statement .tokN := ⟨markerN, [], rfl, by decide, by decide, by decide⟩

theorem tokC (symbol : Symbol) : Statement (.tokC symbol) :=
  ⟨markerC, [symbolByte symbol], rfl, by simp, by simp, by simp [Instr.isToken]⟩

theorem tokZ : Statement .tokZ := ⟨markerZ, [], rfl, by decide, by decide, by decide⟩

end Sys2Proof.Laws.EncodedShape
end

