-- ==== Sys2Proof/Tests/Slice0.lean ====
section
/-! SUPPORT. Tests on small states, their expected values taken from spec/95_test_vectors.md and spec/opcode_table.json, and for
each statement with hypotheses a witness that meets them. -/

set_option maxRecDepth 100000

namespace Sys2Proof.Tests

open Sys2Proof Sys2Proof.Machine

/-! ### Helpers -/

/-- The state after an outcome. -/
def after (o : Host.Outcome State Fault Refusal) : Option State :=
  match o with
  | .next t => some t
  | .fault _ => none
  | .refused _ => none

theorem of_after {o : Host.Outcome State Fault Refusal} {t : State} (h : after o = some t) : o = .next t := by
  cases o with
  | next u => exact congrArg _ (Option.some.inj h)
  | fault f => cases h
  | refused r => cases h

theorem of_check {o : Host.Outcome State Fault Refusal} (p : State → Bool) (h : (after o).any p = true) :
    ∃ t, o = .next t ∧ p t = true := by
  cases o with
  | next t => exact ⟨t, rfl, h⟩
  | fault f => cases h
  | refused r => cases h

/-- W = 8, BE, FW = 64. -/
def eight : Config := ⟨8, .BE, 64, by decide, by decide⟩

/-- W = 16, LE, FW = 64. -/
def sixteenLE : Config := ⟨16, .LE, 64, by decide, by decide⟩

/-- FW = 1: no byte can be tallied. -/
def narrow : Config := ⟨8, .BE, 1, by decide, by decide⟩

def bytes (l : List Nat) : List Byte := l.map (BitVec.ofNat 8)

/-- Idle, with a stream attached. -/
def idleWith (c : Config) (data : List Byte) : State := { State.resetWith c with mem := ⟨data, 0, []⟩ }

/-- The same with the gate off. -/
def gateOff (c : Config) (data : List Byte) : State := { idleWith c data with ctrl := 0x00#8 }

/-- Six bytes 61 (vector E6: W = 8, gate on, accepted). -/
def six : List Byte := bytes [0x61, 0x61, 0x61, 0x61, 0x61, 0x61]

/-- An encode session of vector E6 (the tree as in B4: the sentinel first), at a state, with the streams given. -/
def encHeld (p : Phase) (m : Memory) : State :=
  { State.resetWith eight with
    freq := (Vector.replicate 256 0).set 0x61 6
    nodes := [⟨.leaf 0x061#9, 6, 1#9, 1#256⟩, ⟨.leaf 256#9, 1, 1#9, 0#256⟩, ⟨.internal (some 1#10) (some 0#10), 7, 0#9, 0#256⟩]
    root := 2#10
    leafOf := ((Vector.replicate 257 none).set 0x61 (some 0#10)).set 256 (some 1#10)
    status := ⟨p, .encoder, .ok, false, false, .ok⟩
    inCount := 6
    hdrBytes := 4#10
    payloadBits := 7
    mem := m }

/-- A decode session of the header 4E 5A 43 61 (vector DV1), at a state, with the streams given. -/
def decHeld (c : Config) (p : Phase) (m : Memory) : State :=
  { State.resetWith c with
    nodes := [⟨.internal (some 1#10) (some 2#10), 0, 0#9, 0#256⟩, ⟨.leaf 256#9, 0, 1#9, 0#256⟩, ⟨.leaf 0x061#9, 0, 1#9, 1#256⟩]
    root := 0#10
    status := ⟨p, .decoder, .ok, false, false, .ok⟩
    hdrBytes := 4#10
    sentCount := 1#9
    mem := m }

/-- The tree of that header. -/
def decTree : Tree := .node (.leaf 256#9) (.leaf 0x061#9)

/-- A session that has failed. -/
def failedWith (m : Mode) (e : Result) : State := { State.resetWith eight with status := ⟨.rejected, m, e, false, false, e⟩ }

/-- A parse in progress: the first `N` of a header has been read. -/
def parsing (rest : List Byte) : State :=
  { State.resetWith eight with
    nodes := [⟨.internal none none, 0, 0#9, 0#256⟩]
    pend := [⟨0#10, 0, 0, .left⟩]
    status := ⟨.parsingTree, .decoder, .ok, false, false, .ok⟩
    mem := ⟨rest, 0, []⟩ }

/-- Vector T2's shape before its second leaf: node 1 has its left child and waits for its right one, node 0 for its left one. -/
def parsingRight : State :=
  { parsing [] with
    nodes := [⟨.internal none none, 0, 0#9, 0#256⟩, ⟨.internal (some 2#10) none, 0, 1#9, 0#256⟩, ⟨.leaf 0x062#9, 0, 2#9, 0#256⟩]
    pend := [⟨1#10, 1, 0, .right⟩, ⟨0#10, 0, 0, .left⟩] }

/-- A parse whose arena is full. -/
def fullArena : State := { parsing [] with nodes := List.replicate 513 ⟨.internal none none, 0, 0#9, 0#256⟩ }

/-- A chain of literal leaves: one more internal node at each level. -/
def chain : Nat → Tree
  | 0 => .leaf 0x061#9
  | n + 1 => .node (.leaf 0x061#9) (chain n)

/-! ### The invariant in the helper states -/

theorem inv_idle (c : Config) (data : List Byte) (ctrl : BitVec 8) (script : List HostAction) (h : ctrl &&& 0xFE#8 = 0#8) :
    Inv { idleWith c data with ctrl := ctrl, script := script } where
  streams := by simp [idleWith, Memory.wf]
  resting := rfl
  mode_idle := by simp [idleWith, State.resetWith, Status.reset]
  mode_encoder := by simp [idleWith, State.resetWith, Status.reset]
  mode_decoder := by simp [idleWith, State.resetWith, Status.reset]
  err_rejected := by simp [idleWith, State.resetWith, Status.reset]
  err_fatal := .inl rfl
  ctrl := h
  locals := ⟨rfl, rfl, rfl, rfl, rfl⟩
  inCount := Nat.zero_le _
  payloadBits := Nat.two_pow_pos _
  freq := fun b => by simp [idleWith, State.resetWith]
  nodeFreq := fun n hn => nomatch hn
  word := ⟨Nat.two_pow_pos _, Nat.two_pow_pos _⟩
  arena := by simp [idleWith, State.resetWith, State.nodeN]
  idle_clean := fun _ => ⟨rfl, rfl, rfl, rfl, rfl, rfl, rfl, rfl, rfl⟩
  tree := fun hp => nomatch hp
  leaves := by simp [idleWith, State.resetWith, Status.reset]

theorem inv_idleWith (c : Config) (data : List Byte) : Inv (idleWith c data) :=
  inv_idle c data 0x01#8 [] (by decide)

theorem inv_gateOff (c : Config) (data : List Byte) : Inv (gateOff c data) :=
  inv_idle c data 0x00#8 [] (by decide)

theorem inv_encHeld (p : Phase) (m : Memory) (hp : p = .treeBuilt ∨ p = .exporting ∨ p = .done) (hm : m.wf = true) :
    Inv (encHeld p m) where
  streams := hm
  resting := by rcases hp with rfl | rfl | rfl <;> rfl
  mode_idle := by rcases hp with rfl | rfl | rfl <;> simp [encHeld]
  mode_encoder := fun _ => rfl
  mode_decoder := by rcases hp with rfl | rfl | rfl <;> simp [encHeld]
  err_rejected := by rcases hp with rfl | rfl | rfl <;> simp [encHeld]
  err_fatal := .inl rfl
  ctrl := by simp [encHeld, State.resetWith]
  locals := ⟨rfl, rfl, rfl, rfl, rfl⟩
  inCount := by simp [encHeld, eight, State.resetWith, Config.maxCount]
  payloadBits := by simp [encHeld, eight, State.resetWith]
  freq := fun b => by
    simp only [encHeld, Fin.getElem_fin, Vector.getElem_set, Vector.getElem_replicate]
    split <;> decide
  nodeFreq := by simp [encHeld, eight, State.resetWith]
  word := ⟨Nat.two_pow_pos _, Nat.two_pow_pos _⟩
  arena := by simp [encHeld, State.nodeN, nodeCap]
  idle_clean := by rcases hp with rfl | rfl | rfl <;> exact fun h => nomatch h
  tree := fun _ => ⟨.node (.leaf 256#9) (.leaf 0x061#9), by rfl, by rfl, by rfl⟩
  leaves := fun _ => by
    refine ⟨fun symbol i hi => ?_, ?_⟩
    · simp only [State.leafIndex, encHeld, Vector.getElem_set, Vector.getElem_replicate] at hi
      split at hi
      · cases hi
        exact ⟨_, rfl, by rename_i e; rw [← e]⟩
      · split at hi
        · cases hi
          exact ⟨_, rfl, by rename_i e; rw [← e]⟩
        · cases hi
    · simp [State.leafIndex, encHeld, sentinelSymbol]

theorem inv_decHeld (c : Config) (p : Phase) (m : Memory) (hp : p = .ready ∨ p = .done) (hm : m.wf = true) :
    Inv (decHeld c p m) where
  streams := hm
  resting := by rcases hp with rfl | rfl <;> rfl
  mode_idle := by rcases hp with rfl | rfl <;> simp [decHeld]
  mode_encoder := by rcases hp with rfl | rfl <;> simp [decHeld]
  mode_decoder := fun _ => rfl
  err_rejected := by rcases hp with rfl | rfl <;> simp [decHeld]
  err_fatal := .inl rfl
  ctrl := by simp [decHeld, State.resetWith]
  locals := ⟨rfl, rfl, rfl, rfl, rfl⟩
  inCount := Nat.zero_le _
  payloadBits := Nat.two_pow_pos _
  freq := fun b => by simp [decHeld, State.resetWith]
  nodeFreq := by
    intro n hn
    simp only [decHeld, List.mem_cons, List.not_mem_nil, or_false] at hn
    rcases hn with rfl | rfl | rfl <;> exact Nat.two_pow_pos _
  word := ⟨Nat.two_pow_pos _, Nat.two_pow_pos _⟩
  arena := by simp [decHeld, State.nodeN, nodeCap]
  idle_clean := by rcases hp with rfl | rfl <;> exact fun h => nomatch h
  tree := fun _ => ⟨decTree, by rfl, by rfl, by rfl⟩
  leaves := by rcases hp with rfl | rfl <;> simp [decHeld]

theorem inv_failedWith (m : Mode) (e : Result) (hm : m ≠ .none) (he : e.fatal = true) : Inv (failedWith m e) where
  streams := rfl
  resting := rfl
  mode_idle := by simp [failedWith, hm]
  mode_encoder := by simp [failedWith]
  mode_decoder := by simp [failedWith]
  err_rejected := by simp only [failedWith, iff_true]; rintro rfl; cases he
  err_fatal := .inr he
  ctrl := by simp [failedWith, State.resetWith]
  locals := ⟨rfl, rfl, rfl, rfl, rfl⟩
  inCount := Nat.zero_le _
  payloadBits := Nat.two_pow_pos _
  freq := fun b => by simp [failedWith, State.resetWith]
  nodeFreq := fun n hn => nomatch hn
  word := ⟨Nat.two_pow_pos _, Nat.two_pow_pos _⟩
  arena := by simp [failedWith, State.resetWith, State.nodeN]
  idle_clean := fun h => nomatch h
  tree := fun h => nomatch h
  leaves := by simp [failedWith]

/-! ### The syntax check -/

theorem test_wellFormed_refuses_sentinel_literal : (Instr.tokC 256#9).wellFormed = false := by decide

theorem test_wellFormed_refuses_unused_symbol : (Instr.tokC 511#9).wellFormed = false := by decide

theorem test_wellFormed_takes_greatest_literal : (Instr.tokC 255#9).wellFormed = true := by decide

/-! ### Decoding, words written out from spec/opcode_table.json -/

theorem test_decode_encBuild : decode [0b00000001#8] = .ok (.encBuild, []) := by rfl

theorem test_decode_encExport : decode [0b00000010#8] = .ok (.encExport, []) := by rfl

theorem test_decode_encEncode : decode [0b00000011#8] = .ok (.encEncode, []) := by rfl

theorem test_decode_decBuild : decode [0b00010001#8] = .ok (.decBuild, []) := by rfl

theorem test_decode_decDecode : decode [0b00010010#8] = .ok (.decDecode, []) := by rfl

theorem test_decode_sessionEnd : decode [0b00100000#8] = .ok (.sessionEnd, []) := by rfl

theorem test_decode_tokN : decode [0b01001110#8] = .ok (.tokN, []) := by rfl

theorem test_decode_tokC : decode [0b01000011#8, 0b11111111#8] = .ok (.tokC 0b011111111#9, []) := by rfl

theorem test_decode_tokZ : decode [0b01011010#8] = .ok (.tokZ, []) := by rfl

theorem test_decode_literal_is_no_marker : decode [0x43#8, 0x4E#8, 0x5A#8] = .ok (.tokC 0x04E#9, [0x5A#8]) := by rfl

theorem test_decode_refuses_00 : decodeCommand 0x00#8 = .error (.unassignedOpcode 0x00#8) := by rfl

theorem test_decode_refuses_lower_case : decodeToken [0x6E#8] = .error (.badMarker 0x6E#8) := by rfl

theorem test_decode_refuses_bare_C : decodeToken [0x43#8] = .error .noLiteral := by rfl

theorem test_tableWord_tokC : decodeTableWord 16 0x43FF = some (.tokC 0x0FF#9) := by rfl

/-! ### One step of each instruction -/

/-- Vectors E6 and B4. -/
theorem test_encBuild_six : exec .encBuild (idleWith eight six) = .next (encHeld .treeBuilt ⟨six, 6, []⟩) :=
  of_after (by decide +kernel)

/-- Vector E10. -/
theorem test_encBuild_empty : (after (exec .encBuild (idleWith eight []))).map (·.status.word) = some 0x1059#16 := by decide +kernel

/-- Vector E6. -/
theorem test_encExport_writes_header :
    (after (exec .encExport (encHeld .treeBuilt ⟨six, 0, []⟩))).map (fun t => (t.status.word, t.mem)) =
      some (0x0013#16, ⟨six, 0, bytes [0x4E, 0x5A, 0x43, 0x61]⟩) := by decide +kernel

/-- Vector X3. -/
theorem test_encExport_in_idle : (after (exec .encExport State.reset)).map (·.status.word) = some 0x6800#16 := by decide +kernel

/-- Vector E6. -/
theorem test_encEncode_writes_payload :
    (after (exec .encEncode (encHeld .exporting ⟨six, 0, bytes [0x4E, 0x5A, 0x43, 0x61]⟩))).map (fun t => (t.status.word, t.mem)) =
      some (0x0018#16, ⟨six, 6, bytes [0x4E, 0x5A, 0x43, 0x61, 0xFC]⟩) := by decide +kernel

/-- Vector E12: eight bytes 61 fill a word, the byte 62 has no code. -/
theorem test_encEncode_noCode :
    (after (exec .encEncode (encHeld .exporting ⟨List.replicate 9 0x61#8 ++ [0x62#8], 0, []⟩))).map
      (fun t => (t.status.word, t.mem.out, t.mem.pos, t.cnt)) = some (0x8219#16, [0xFF#8], 10, 0) := by decide +kernel

/-- Vector DV1. -/
theorem test_decBuild_takes_header :
    (after (exec .decBuild (idleWith eight (bytes [0x4E, 0x5A, 0x43, 0x61, 0xFC])))).map
      (fun t => (t.status.word, t.nodes, t.sentCount, t.hdrBytes, t.mem.pos)) =
      some (0x0026#16, (decHeld eight .ready ⟨[], 0, []⟩).nodes, 1#9, 4#10, 4) := by decide +kernel

/-- Vector H7: two sentinels. -/
theorem test_decBuild_two_sentinels :
    (after (exec .decBuild (idleWith eight (bytes [0x4E, 0x5A, 0x5A])))).map
      (fun t => (t.status.word, t.mem.pos, t.nodeN, t.sentCount, t.hdrBytes)) = some (0x30E9#16, 3, 3, 2#9, 0#10) := by decide +kernel

/-- Vector DV1, W = 64. -/
theorem test_decDecode_stops_at_sentinel :
    (after (exec .decDecode (decHeld Config.standard .ready
      ⟨bytes [0x4E, 0x5A, 0x43, 0x61, 0xFF, 0xFF, 0, 0, 0, 0, 0, 0, 0xDE], 4, []⟩))).map
      (fun t => (t.status.word, t.mem.out, t.mem.pos)) = some (0x0028#16, List.replicate 16 0x61#8, 12) := by decide +kernel

/-- Vector DV4: a short last word. -/
theorem test_decDecode_truncated :
    (after (exec .decDecode (decHeld Config.standard .ready ⟨bytes [0x4E, 0x5A, 0x43, 0x61, 0xFF, 0xFF, 0], 4, []⟩))).map
      (fun t => (t.status.word, t.mem.out, t.mem.pos)) = some (0x4129#16, [], 7) := by decide +kernel

/-- Vector X5. -/
theorem test_sessionEnd_clears :
    (after (exec .sessionEnd (encHeld .done ⟨six, 6, [0xFC#8]⟩))).map
      (fun t => (t.status.word, t.inCount, t.nodeN, t.mem)) = some (0x0000#16, 0, 0, ⟨six, 6, [0xFC#8]⟩) := by decide +kernel

/-- 46_session_commands.md R225: CTRL keeps its value. -/
theorem test_sessionEnd_keeps_ctrl :
    (after (exec .sessionEnd { failedWith .decoder .malformedTree with ctrl := 0x00#8 })).map (·.ctrl) = some 0x00#8 := by decide +kernel

/-- Vector T2: node 1 is the left child of node 0. -/
theorem test_tokN :
    (after (exec .tokN (parsing []))).map (fun t => (t.nodes, t.pend)) =
      some ([⟨.internal none none, 0, 0#9, 0#256⟩, ⟨.internal none none, 0, 1#9, 0#256⟩],
        [⟨1#10, 1, 0, .left⟩, ⟨0#10, 0, 0, .left⟩]) := by decide +kernel

/-- Vector T2 read at its first leaf: a literal as a left child; the right branch is due. -/
theorem test_tokC :
    (after (exec (.tokC 0x061#9) (parsing []))).map (fun t => (t.nodes, t.pend)) =
      some ([⟨.internal (some 1#10) none, 0, 0#9, 0#256⟩, ⟨.leaf 0x061#9, 0, 1#9, 0#256⟩],
        [⟨0#10, 0, 0, .right⟩]) := by decide +kernel

/-- Vector T2's shape: node 1 is finished with the leaf as its right child, and returned as the left child of node 0. -/
theorem test_tokC_finishes_a_node :
    (after (exec (.tokC 0x061#9) parsingRight)).map (fun t => (t.nodes.map (·.kind), t.pend, t.root)) =
      some ([.internal (some 1#10) none, .internal (some 2#10) (some 3#10), .leaf 0x062#9, .leaf 0x061#9],
        [⟨0#10, 0, 0, .right⟩], 0#10) := by decide +kernel

/-- Vector H7's first Z. -/
theorem test_tokZ :
    (after (exec .tokZ (parsing []))).map (fun t => (t.nodes, t.sentCount)) =
      some ([⟨.internal (some 1#10) none, 0, 0#9, 0#256⟩, ⟨.leaf 256#9, 0, 1#9, 0#256⟩], 1#9) := by decide +kernel

/-- Vector X2. -/
theorem test_step_unassigned :
    (after (step { State.reset with script := [.regWrite 0 0xFF#8] })).map (fun t => (t.status.word, t.seen)) =
      some (0x5400#16, [.rsp .illegalCommand]) := by decide +kernel

/-- Vector X6. -/
theorem test_write_ctrl : regRead 2 (State.reset.writeCtrl 0xFF#8) = 1 ∧ regRead 2 (State.reset.writeCtrl 0xFE#8) = 0 := by decide

/-- Vector UV1's order, W = 8: the word is read before any of its literals is written. -/
theorem test_accesses_decDecode :
    (after (exec .decDecode (decHeld eight .ready ⟨[0xDF#8], 0, []⟩))).map
      (commandAccesses 0x12#8 (decHeld eight .ready ⟨[0xDF#8], 0, []⟩)) =
      some [.read, .write 0x61#8, .write 0x61#8] := by decide +kernel

/-- Vector E12's order, W = 8: the eighth byte is read, the word it fills is written, the ninth is read, then the one with no code. -/
theorem test_accesses_encEncode :
    (after (exec .encEncode (encHeld .exporting ⟨List.replicate 9 0x61#8 ++ [0x62#8], 0, []⟩))).map
      (commandAccesses 0x03#8 (encHeld .exporting ⟨List.replicate 9 0x61#8 ++ [0x62#8], 0, []⟩)) =
      some (List.replicate 8 .read ++ [.write 0xFF#8, .read, .read]) := by decide +kernel

/-- Vector P5. -/
theorem test_word_order_LE : wordBytes sixteenLE 0x5CE7 = [0xE7#8, 0x5C#8] := by decide +kernel

/-- Vector P2: a code longer than the word. -/
theorem test_packer_long_code :
    (bpFlush (bpPush 10 0b1011001110#256 (bpReset (State.resetWith eight)))).mem.out = [0xB3#8, 0x80#8] := by decide +kernel

/-- The next step runs a command placed at reset. -/
theorem test_withFetchWord_command :
    (after (step (State.reset.withFetchWord 8 0x12))).map (fun t => (t.status.word, t.seen)) =
      some (0x6800#16, [.rsp .badState]) := by decide +kernel

/-- The next step runs a token placed at reset: the one leaf of vector H9, a complete tree with no sentinel. -/
theorem test_withFetchWord_token :
    (after (step (State.reset.withFetchWord 16 0x4361))).map (fun t => (t.status.word, t.nodeN, t.mem.pos)) =
      some (0x30E9#16, 1, 2) := by decide +kernel

/-! ### Witnesses: states and operands that meet the hypotheses of each statement -/

theorem witness_DecodeAndEncodeAgree :
    (Instr.tokC 255#9).wellFormed = true ∧ decode [0x43#8, 0xFF#8, 0x01#8] = .ok (.tokC 255#9, [0x01#8]) := by
  exact ⟨by decide, by rfl⟩

theorem witness_OnlyThreeMarkersBeginAToken :
    (0x58#8 ≠ 0x4E#8 ∧ 0x58#8 ≠ 0x43#8 ∧ 0x58#8 ≠ 0x5A#8) ∧ decodeToken [0x58#8] = .error (.badMarker 0x58#8) := by
  exact ⟨by decide, by rfl⟩

theorem witness_RegisterMap : Inv State.reset ∧ 7 < 8 ∧ 3 ≠ 0 ∧ 3 ≠ 2 := ⟨inv_idleWith Config.standard [], by decide⟩

theorem witness_CtrlKeepsOnlyGateEn :
    ∃ t, exec .encEncode (encHeld .exporting ⟨six, 0, []⟩) = .next t ∧ decide (t.status.last = .ok) = true :=
  of_check _ (by decide +kernel)

theorem witness_StepRunsTheCommandWritten :
    let s := { State.reset with script := [.regWrite 0 0x20#8] }
    s.status.phase.resting = true ∧ s.script = .regWrite 0 0x20#8 :: [] ∧ decodeCommand 0x20#8 = .ok .sessionEnd := by
  exact ⟨rfl, rfl, by rfl⟩

theorem witness_StepRunsTheTokenFetched :
    (parsing [0x43#8, 0x61#8]).status.phase = .parsingTree ∧
    decodeToken (parsing [0x43#8, 0x61#8]).input = .ok (.tokC 0x061#9, []) := by
  exact ⟨rfl, by rfl⟩

theorem witness_HostStreamActions :
    (∃ t, (decHeld eight .ready ⟨bytes [0xFC], 0, []⟩).mem.wf = true ∧
      exec .decDecode (decHeld eight .ready ⟨bytes [0xFC], 0, []⟩) = .next t) ∧
    (∃ t, exec .sessionEnd (decHeld eight .ready ⟨bytes [0xFC], 0, []⟩) = .next t) ∧
    (∃ t, hostAct .rst (decHeld eight .ready ⟨bytes [0xFC], 0, []⟩) = .next t) ∧
    (∃ s : State, s.status.phase.resting = true ∧ s.script = .rewind :: []) ∧
    (∃ s : State, s.status.phase.resting = true ∧ s.script = []) := by
  refine ⟨?_, ⟨_, rfl⟩, ⟨_, rfl⟩, ⟨{ State.reset with script := [.rewind] }, rfl, rfl⟩, ⟨State.reset, rfl, rfl⟩⟩
  obtain ⟨t, h, -⟩ := of_check (o := exec .decDecode (decHeld eight .ready ⟨bytes [0xFC], 0, []⟩)) (fun _ => true) (by decide +kernel)
  exact ⟨t, rfl, h⟩

/-- A command with an input, and DEC_DECODE with none (vector DV3): there no prefix of its accesses moves the cursor. -/
theorem witness_ResetCutsACommandOff :
    (∃ s : State, Inv s ∧ s.input ≠ []) ∧
    (∃ s t, Inv s ∧ decodeCommand 0x12#8 = .ok .decDecode ∧ hostAct (.rstDuring 0x12#8) s = .next t ∧ t.mem.pos = s.mem.pos) := by
  refine ⟨⟨_, inv_idleWith eight six, by decide⟩, ?_⟩
  obtain ⟨u, h, hu⟩ := of_check (o := issue 0x12#8 (decHeld eight .ready ⟨[], 0, []⟩))
    (fun u => (commandAccesses 0x12#8 (decHeld eight .ready ⟨[], 0, []⟩) u).isEmpty) (by decide +kernel)
  refine ⟨decHeld eight .ready ⟨[], 0, []⟩, cutOff 0x12#8 (decHeld eight .ready ⟨[], 0, []⟩) u,
    inv_decHeld _ _ _ (by decide) rfl, by rfl, ?_, ?_⟩
  · simp only [hostAct, rstDuring, h]
  · simp only [cutOff, List.isEmpty_iff.mp hu, List.take_nil, Memory.perform_nil]

theorem noCommand_04 : ∀ i, decodeCommand 0x04#8 ≠ .ok i := fun _ h => nomatch (show Except.error _ = Except.ok _ from h)

theorem witness_UnassignedOpcodeIsRefused :
    State.reset.status.phase.resting = true ∧ ∀ i, decodeCommand 0x04#8 ≠ .ok i := ⟨rfl, noCommand_04⟩

/-- Both clauses: a command not admitted, and an admitted one that ends. -/
theorem witness_CommandInWrongStateIsRefused :
    (Instr.isToken .encExport = false ∧ State.reset.status.phase.resting = true ∧ ¬ admits .encExport State.reset.status.phase) ∧
    (Instr.isToken .sessionEnd = false ∧ admits .sessionEnd State.reset.status.phase ∧
      ∃ t, exec .sessionEnd State.reset = .next t) :=
  ⟨⟨rfl, rfl, by simp [admits, State.reset, State.resetWith, Status.reset]⟩, rfl,
    by simp [admits, State.reset, State.resetWith, Status.reset], _, rfl⟩

/-- Both clauses: a fatal result (vector H1) and a refusal (vector X3). -/
theorem witness_RaiseEntersRejected :
    (∃ s t, Inv s ∧ Instr.isToken .decBuild = false ∧ exec .decBuild s = .next t ∧ t.status.last.fatal = true ∧
      decodeCommand 0x11#8 = .ok .decBuild) ∧
    (∃ s t, Inv s ∧ Instr.isToken .encExport = false ∧ exec .encExport s = .next t ∧ t.status.last = .badState) := by
  constructor
  · obtain ⟨t, h, ht⟩ := of_check (o := exec .decBuild (idleWith eight [0x58#8])) (fun t => t.status.last.fatal) (by decide +kernel)
    exact ⟨_, t, inv_idleWith _ _, rfl, h, ht, by rfl⟩
  · exact ⟨_, _, inv_idleWith eight [], rfl, rfl, rfl⟩

/-- Each clause: a fatal result, one that is not, a command after a failure, an unassigned opcode, an action that is no command,
a command not admitted, one admitted that succeeds, one admitted that fails. -/
theorem witness_ErrPerrAndLast :
    (∃ s t, Inv s ∧ exec .encBuild s = .next t ∧ t.status.last.fatal = true) ∧
    (∃ s t, Inv s ∧ exec .encExport s = .next t ∧ t.status.last.fatal = false) ∧
    (∃ s t, Inv s ∧ s.status.err ≠ .ok ∧ exec .decDecode s = .next t) ∧
    (∃ s : State, Inv s ∧ ∀ i, decodeCommand 0x04#8 ≠ .ok i) ∧
    (∃ t, Inv State.reset ∧ (∀ v, HostAction.regRead 1 ≠ .regWrite 0 v) ∧ HostAction.regRead 1 ≠ .rst ∧
      (∀ v, HostAction.regRead 1 ≠ .rstDuring v) ∧ hostAct (.regRead 1) State.reset = .next t) ∧
    (∃ s t, Inv s ∧ ¬ admits .encExport s.status.phase ∧ exec .encExport s = .next t) ∧
    (∃ s t, Inv s ∧ admits .encExport s.status.phase ∧ exec .encExport s = .next t ∧ t.status.phase ≠ .rejected) ∧
    (∃ s t, Inv s ∧ admits .encBuild s.status.phase ∧ exec .encBuild s = .next t ∧ t.status.phase = .rejected) := by
  refine ⟨?_, ⟨_, _, inv_idleWith eight [], rfl, rfl⟩,
    ⟨_, _, inv_failedWith .decoder .malformedTree (by decide) (by decide), by simp [failedWith], rfl⟩,
    ⟨_, inv_idleWith eight [], noCommand_04⟩,
    ⟨_, inv_idleWith Config.standard [], fun _ => by simp, by simp, fun _ => by simp, rfl⟩,
    ⟨_, _, inv_idleWith eight [], by simp [admits, idleWith, State.resetWith, Status.reset], rfl⟩, ?_, ?_⟩
  · obtain ⟨t, h, ht⟩ := of_check (o := exec .encBuild (idleWith eight [])) (fun t => t.status.last.fatal) (by decide +kernel)
    exact ⟨_, t, inv_idleWith _ _, h, ht⟩
  · obtain ⟨t, h, ht⟩ := of_check (o := exec .encExport (encHeld .treeBuilt ⟨six, 0, []⟩))
      (fun t => decide (t.status.phase ≠ .rejected)) (by decide +kernel)
    exact ⟨_, t, inv_encHeld .treeBuilt ⟨six, 0, []⟩ (by decide) rfl, rfl, h, of_decide_eq_true ht⟩
  · obtain ⟨t, h, ht⟩ := of_check (o := exec .encBuild (idleWith eight [])) (fun t => decide (t.status.phase = .rejected))
      (by decide +kernel)
    exact ⟨_, t, inv_idleWith _ _, rfl, h, of_decide_eq_true ht⟩

theorem witness_CommandTransitions :
    (∃ s, Inv s ∧ s.status.phase = .idle) ∧ (∃ s, Inv s ∧ s.status.phase = .treeBuilt) ∧
    (∃ s, Inv s ∧ s.status.phase = .exporting) ∧ (∃ s, Inv s ∧ s.status.phase = .ready) ∧
    (∃ s, Inv s ∧ Instr.isToken .decBuild = false ∧ ¬ admits .decBuild s.status.phase) ∧
    (∃ s : State, Inv s ∧ ∀ i, decodeCommand 0x04#8 ≠ .ok i) :=
  ⟨⟨_, inv_idleWith eight [], rfl⟩, ⟨_, inv_encHeld .treeBuilt ⟨six, 0, []⟩ (by decide) rfl, rfl⟩,
   ⟨_, inv_encHeld .exporting ⟨six, 0, []⟩ (by decide) rfl, rfl⟩,
   ⟨_, inv_decHeld eight .ready ⟨bytes [0xFC], 0, []⟩ (by decide) rfl, rfl⟩,
   ⟨_, inv_encHeld .done ⟨six, 6, []⟩ (by decide) rfl, rfl, by simp [admits, encHeld]⟩,
   ⟨_, inv_idleWith eight [], noCommand_04⟩⟩

theorem witness_StepKeepsTheInvariant : ∃ s t, Inv s ∧ s.script ≠ [] ∧ step s = .next t :=
  ⟨_, _, inv_idle eight six 0x01#8 [.regWrite 2 0x00#8] (by decide), by decide, rfl⟩

theorem witness_StepNeverStops :
    (∃ s, Inv s ∧ s.script = [.regWrite 0 0x01#8]) ∧ (∃ s, Inv s ∧ s.status.phase = .ready) ∧
    (∃ s, Inv s ∧ s.status.phase = .exporting) :=
  ⟨⟨_, inv_idle eight six 0x01#8 [.regWrite 0 0x01#8] (by decide), rfl⟩,
   ⟨_, inv_decHeld eight .ready ⟨bytes [0xFC], 0, []⟩ (by decide) rfl, rfl⟩,
   ⟨_, inv_encHeld .exporting ⟨six, 0, []⟩ (by decide) rfl, rfl⟩⟩

theorem witness_ParametersAreFixed : ∃ t, step { idleWith eight six with script := [.rst] } = .next t := ⟨_, rfl⟩

theorem witness_TreeIsNotModifiedWhileHeld :
    ∃ s t, s.status.phase.holdsTree = true ∧ Instr.encExport ≠ .sessionEnd ∧ exec .encExport s = .next t := by
  obtain ⟨t, h, -⟩ := of_check (o := exec .encExport (encHeld .treeBuilt ⟨six, 0, []⟩)) (fun _ => true) (by decide +kernel)
  exact ⟨_, t, rfl, by decide, h⟩

/-- Both clauses: a command that writes, and one that does not. -/
theorem witness_OutOnlyGrows :
    (∃ s t, exec .encExport s = .next t ∧ s.mem.out ≠ t.mem.out) ∧
    (∃ s t, exec .decBuild s = .next t ∧ Instr.decBuild ≠ .encExport ∧ Instr.decBuild ≠ .encEncode ∧ Instr.decBuild ≠ .decDecode) := by
  constructor
  · obtain ⟨t, h, ht⟩ := of_check (o := exec .encExport (encHeld .treeBuilt ⟨six, 0, []⟩)) (fun t => decide ([] ≠ t.mem.out))
      (by decide +kernel)
    exact ⟨_, t, h, of_decide_eq_true ht⟩
  · obtain ⟨t, h, -⟩ := of_check (o := exec .decBuild (idleWith eight [0x58#8])) (fun _ => true) (by decide +kernel)
    exact ⟨_, t, h, by decide⟩

/-- Each clause, at the greatest word and the last byte. -/
theorem witness_WordBytesFollowByteOrder :
    (0xFF < 2 ^ eight.W ∧ eight.order = .BE ∧ 0 < eight.WB) ∧
    (0xFFFF < 2 ^ sixteenLE.W ∧ sixteenLE.order = .LE ∧ 1 < sixteenLE.WB) ∧
    ([0x5C#8, 0xE7#8].length = sixteenLE.WB) ∧
    (∃ c d : Config, c.W = 8 ∧ d.W = 8 ∧ c.order = .BE ∧ d.order = .LE) :=
  ⟨by decide, by decide, by decide, eight, ⟨8, .LE, 64, by decide, by decide⟩, rfl, rfl, rfl, rfl⟩

theorem witness_EmptyInputIsRejected : ∃ s, Inv s ∧ s.status.phase = .idle ∧ s.input = [] :=
  ⟨_, inv_idleWith eight [], rfl, rfl⟩

/-- Vector B11's case at the narrowest width. -/
theorem witness_CounterOverflowIsRaised : ∃ s, Inv s ∧ s.status.phase = .idle ∧ s.cfg.maxCount < s.input.length :=
  ⟨_, inv_idleWith narrow [0x61#8], rfl, by decide⟩

/-- An input accepted (vector E6), and one refused by the gate at equal size (vector G3). -/
theorem witness_EncBuildBuildsTheTree :
    (∃ s, Inv s ∧ s.status.phase = .idle ∧ s.input ≠ [] ∧ s.input.length ≤ s.cfg.maxCount ∧ s.input.length = 6) ∧
    (∃ s, Inv s ∧ s.status.phase = .idle ∧ s.input ≠ [] ∧ s.input.length ≤ s.cfg.maxCount ∧ s.input.length = 5 ∧ s.gateEn = true) :=
  ⟨⟨_, inv_idleWith eight six, rfl, by decide, by decide, rfl⟩,
   ⟨_, inv_idleWith eight (List.replicate 5 0x61#8), rfl, by decide, by decide, rfl, by decide⟩⟩

/-- The gate on and off. -/
theorem witness_GateRejectsExactlyTheIncompressible :
    (∃ s, Inv s ∧ s.status.phase = .idle ∧ s.input ≠ [] ∧ s.input.length ≤ s.cfg.maxCount ∧ s.ctrl.getLsbD 0 = true) ∧
    (∃ s, Inv s ∧ s.status.phase = .idle ∧ s.input ≠ [] ∧ s.input.length ≤ s.cfg.maxCount ∧ s.ctrl.getLsbD 0 = false) :=
  ⟨⟨_, inv_idleWith eight six, rfl, by decide, by decide, by decide⟩,
   ⟨_, inv_gateOff eight [0x61#8], rfl, by decide, by decide, by decide⟩⟩

theorem witness_InitMakesTheLeavesInOrder : (idleWith eight six).nodes = [] := rfl

/-- A queue of the two leaves, not in the order of their keys. -/
def queued : State := { encHeld .treeBuilt ⟨six, 0, []⟩ with q := [0#10, 1#10] }

theorem witness_RemoveMinTakesTheLeastKey :
    queued.q ≠ [] ∧ queued.q.Nodup ∧ (∀ j ∈ queued.q, j.toNat < queued.nodes.length) ∧
    ∃ nm nj, queued.node? 0#10 = some nm ∧ queued.node? 1#10 = some nj :=
  ⟨by decide, by decide, by decide, _, _, rfl, rfl⟩

theorem witness_MergeJoinsTheTwoLeast :
    2 ≤ queued.q.length ∧ queued.q.Nodup ∧ (∀ j ∈ queued.q, j.toNat < queued.nodes.length) :=
  ⟨by decide, by decide, by decide⟩

/-- The built session of vector E6: an Internal node, a node by its number, and a second input of the same bytes. -/
theorem witness_BuiltTreeProperties :
    ∃ s t, Inv s ∧ s.status.phase = .idle ∧ s.input ≠ [] ∧ s.input.length ≤ s.cfg.maxCount ∧ exec .encBuild s = .next t ∧
      (∃ n ∈ t.nodes, n.isLeaf = false) ∧
      (∃ n l r, t.nodes[2]? = some n ∧ n.kind = .internal (some l) (some r)) ∧
      (∃ s' t', Inv s' ∧ s'.status.phase = .idle ∧ s'.input.Perm s.input ∧ s'.input.length ≤ s'.cfg.maxCount ∧
        exec .encBuild s' = .next t') :=
  ⟨_, _, inv_idleWith eight six, rfl, by decide, by decide, test_encBuild_six,
   ⟨⟨.internal (some 1#10) (some 0#10), 7, 0#9, 0#256⟩, by simp [encHeld], rfl⟩, ⟨_, _, _, rfl, rfl⟩,
   _, _, inv_idleWith eight six, rfl, List.Perm.refl _, by decide, test_encBuild_six⟩

/-- One byte (a tie, vector B3) and more than one (vector B4). -/
theorem witness_OneByteValueGivesTwoLeaves :
    (∃ s, Inv s ∧ s.status.phase = .idle ∧ s.input = List.replicate (0 + 1) 0x61#8 ∧ 0 + 1 ≤ s.cfg.maxCount) ∧
    (∃ s, Inv s ∧ s.status.phase = .idle ∧ s.input = List.replicate (5 + 1) 0x61#8 ∧ 5 + 1 ≤ s.cfg.maxCount) ∧
    (∃ s t, Inv s ∧ s.status.phase = .idle ∧ s.input ≠ [] ∧ s.input.length ≤ s.cfg.maxCount ∧ exec .encBuild s = .next t) :=
  ⟨⟨_, inv_idleWith eight [0x61#8], rfl, rfl, by decide⟩, ⟨_, inv_idleWith eight six, rfl, rfl, by decide⟩,
   ⟨_, _, inv_idleWith eight six, rfl, by decide, by decide, test_encBuild_six⟩⟩

theorem witness_BuiltTreeIsOptimal :
    ∃ s t, Inv s ∧ s.status.phase = .idle ∧ s.input ≠ [] ∧ s.input.length ≤ s.cfg.maxCount ∧ exec .encBuild s = .next t ∧
      t.tree? = some decTree ∧
      ∃ T' : Tree, T'.symbols.Perm decTree.symbols ∧ T' ≠ decTree :=
  ⟨_, _, inv_idleWith eight six, rfl, by decide, by decide, test_encBuild_six, by rfl,
   .node (.leaf 0x061#9) (.leaf 256#9), by decide, by decide⟩

/-- Both builds, with a path to a leaf and two leaves. -/
theorem witness_CodesArePaths :
    (∃ s t j, Inv s ∧ exec .encBuild s = .next t ∧ t.status.last = .ok ∧ follow t.nodes t.root [true] = some j) ∧
    (∃ s t j, Inv s ∧ exec .decBuild s = .next t ∧ t.status.last = .ok ∧ follow t.nodes t.root [true] = some j) := by
  refine ⟨⟨_, _, 0#10, inv_idleWith eight six, test_encBuild_six, rfl, by rfl⟩, ?_⟩
  obtain ⟨t, h, ht⟩ := of_check (o := exec .decBuild (idleWith eight (bytes [0x4E, 0x5A, 0x43, 0x61])))
    (fun t => decide (t.status.last = .ok ∧ follow t.nodes t.root [true] = some 2#10)) (by decide +kernel)
  obtain ⟨h1, h2⟩ := of_decide_eq_true ht
  exact ⟨_, t, _, inv_idleWith _ _, h, h1, h2⟩

theorem witness_CodesArePrefixFreeAndComplete :
    ∃ s t m n, Inv s ∧ exec .encBuild s = .next t ∧ t.status.last = .ok ∧ 0 ≠ 1 ∧ t.nodes[0]? = some m ∧
      t.nodes[1]? = some n ∧ m.isLeaf = true ∧ n.isLeaf = true :=
  ⟨_, _, _, _, inv_idleWith eight six, test_encBuild_six, rfl, by decide, rfl, rfl, rfl, rfl⟩

theorem witness_EncExportWritesTheHeader : ∃ s, Inv s ∧ s.status.phase = .treeBuilt :=
  ⟨_, inv_encHeld .treeBuilt ⟨six, 0, []⟩ (by decide) rfl, rfl⟩

/-- A non-empty input, and an empty one (vector E11: no rewind). -/
theorem witness_EncEncodeWritesThePayload :
    (∃ s, Inv s ∧ s.status.phase = .exporting ∧ s.input ≠ [] ∧ ∀ b ∈ s.input, (s.leafIndex (byteSymbol b)).isSome = true) ∧
    (∃ s, Inv s ∧ s.status.phase = .exporting ∧ s.input = []) := by
  refine ⟨⟨_, inv_encHeld .exporting ⟨six, 0, []⟩ (by decide) rfl, rfl, by decide, ?_⟩,
    _, inv_encHeld .exporting ⟨six, 6, []⟩ (by decide) rfl, rfl, rfl⟩
  simp [State.input, encHeld, six, bytes, byteSymbol, State.leafIndex]

/-- Vector E12. -/
theorem witness_ByteWithoutCodeIsRejected :
    ∃ s, Inv s ∧ s.status.phase = .exporting ∧ s.input = [0x61#8] ++ 0x62#8 :: [] ∧
      (∀ x ∈ [0x61#8], (s.leafIndex (byteSymbol x)).isSome = true) ∧ s.leafIndex (byteSymbol 0x62#8) = none := by
  refine ⟨_, inv_encHeld .exporting ⟨[0x61#8, 0x62#8], 0, []⟩ (by decide) rfl, rfl, rfl, ?_, ?_⟩ <;>
    simp [encHeld, byteSymbol, State.leafIndex]

theorem witness_WholeEncodeWritesHeaderAndPayload :
    ∃ s s1, Inv s ∧ s.status.phase = .idle ∧ s.mem.pos = 0 ∧ s.mem.data ≠ [] ∧ exec .encBuild s = .next s1 ∧
      s1.status.last = .ok ∧ s.gateEn = true :=
  ⟨_, _, inv_idleWith eight six, rfl, rfl, by decide, test_encBuild_six, rfl, by decide⟩

/-- Vector DV2: bytes after the header. -/
theorem witness_DecBuildImportsTheHeader :
    ∃ s, Inv s ∧ s.status.phase = .idle ∧ decTree.acceptable = true ∧ s.input = decTree.header ++ [0xFC#8] :=
  ⟨_, inv_idleWith eight (bytes [0x4E, 0x5A, 0x43, 0x61, 0xFC]), rfl, by decide, rfl⟩

/-- Vectors H6 (no sentinel), H7 (two), H8 (one, as the root). -/
theorem witness_WrongSentinelCountIsMalformed :
    (∃ s, ∃ T : Tree, Inv s ∧ s.status.phase = .idle ∧ T.symbolsOk = true ∧ T.size ≤ nodeCap ∧ T.sentinels = 0 ∧
      s.input = T.header ++ []) ∧
    (∃ s, ∃ T : Tree, Inv s ∧ s.status.phase = .idle ∧ T.symbolsOk = true ∧ T.size ≤ nodeCap ∧ T.sentinels = 2 ∧
      s.input = T.header ++ []) ∧
    (∃ s, ∃ T : Tree, Inv s ∧ s.status.phase = .idle ∧ T.symbolsOk = true ∧ T.size ≤ nodeCap ∧ T.isNode = false ∧
      s.input = T.header ++ []) :=
  ⟨⟨_, .node (.leaf 0x061#9) (.leaf 0x062#9), inv_idleWith eight (bytes [0x4E, 0x43, 0x61, 0x43, 0x62]), rfl, by decide, by decide,
      by decide, rfl⟩,
   ⟨_, .node (.leaf 256#9) (.leaf 256#9), inv_idleWith eight (bytes [0x4E, 0x5A, 0x5A]), rfl, by decide, by decide, by decide, rfl⟩,
   ⟨_, .leaf 256#9, inv_idleWith eight (bytes [0x5A]), rfl, by decide, by decide, by decide, rfl⟩⟩

/-- Vector H12's shape: 515 nodes. -/
theorem witness_HeaderBeyondTheArenaIsRejected :
    ∃ s, Inv s ∧ s.status.phase = .idle ∧ (chain 257).symbolsOk = true ∧ nodeCap < (chain 257).size ∧
      s.input = (chain 257).header ++ [] :=
  ⟨_, inv_idleWith eight ((chain 257).header ++ []), rfl, by decide +kernel, by decide +kernel, rfl⟩

/-- A header, and none. -/
theorem witness_DecBuildAcceptsExactlyHeaders :
    (∃ s, Inv s ∧ s.status.phase = .idle ∧ decTree.acceptable = true ∧ decTree.header <+: s.input) ∧
    (∃ s, Inv s ∧ s.status.phase = .idle ∧ s.input = [0x58#8]) :=
  ⟨⟨_, inv_idleWith eight (bytes [0x4E, 0x5A, 0x43, 0x61]), rfl, by decide, List.prefix_refl _⟩,
   ⟨_, inv_idleWith eight [0x58#8], rfl, rfl⟩⟩

theorem witness_TokenLoopIsTheRecursiveParse :
    (idleWith eight (bytes [0x4E, 0x5A, 0x43, 0x61])).nodes = [] ∧ (idleWith eight (bytes [0x4E, 0x5A, 0x43, 0x61])).pend = [] :=
  ⟨rfl, rfl⟩

theorem witness_BuildRegistersStayInRange :
    (∃ s t, Inv s ∧ s.status.phase = .idle ∧ exec .encBuild s = .next t) ∧
    (∃ s t, Inv s ∧ s.status.phase = .idle ∧ exec .decBuild s = .next t) := by
  refine ⟨⟨_, _, inv_idleWith eight six, rfl, test_encBuild_six⟩, ?_⟩
  obtain ⟨t, h, -⟩ := of_check (o := exec .decBuild (idleWith eight [0x5A#8])) (fun _ => true) (by decide +kernel)
  exact ⟨_, t, inv_idleWith _ _, rfl, h⟩

theorem witness_DecoderIsTotalOnUntrustedInput :
    (∃ s, Inv s ∧ s.status.phase = .idle ∧ s.input ≠ []) ∧ (∃ s, Inv s ∧ s.status.phase = .ready ∧ s.input ≠ []) :=
  ⟨⟨_, inv_idleWith eight [0x58#8], rfl, by decide⟩,
   ⟨_, inv_decHeld eight .ready ⟨[0x80#8], 0, []⟩ (by decide) rfl, rfl, by decide⟩⟩

/-- Vectors E6 and DV1: the exported header of the built tree, with a payload after it. -/
theorem witness_HeaderRoundTrip :
    (∃ d, Inv d ∧ d.status.phase = .idle ∧ decTree.acceptable = true ∧ d.input = decTree.header ++ []) ∧
    ∃ s s1 s2 d, Inv s ∧ s.status.phase = .idle ∧ exec .encBuild s = .next s1 ∧ s1.status.last = .ok ∧
      exec .encExport s1 = .next s2 ∧ Inv d ∧ d.status.phase = .idle ∧
      d.input = s2.mem.out.drop s1.mem.out.length ++ [0xFC#8] ∧
      (follow s1.nodes s1.root [true] = some 0#10 ∧
        ∃ t, exec .decBuild d = .next t ∧ follow t.nodes t.root [true] = some 2#10) := by
  refine ⟨⟨_, inv_idleWith eight (bytes [0x4E, 0x5A, 0x43, 0x61]), rfl, by decide, rfl⟩, ?_⟩
  obtain ⟨s2, h, h2⟩ := of_check (o := exec .encExport (encHeld .treeBuilt ⟨six, 6, []⟩))
    (fun t => decide (t.mem.out = bytes [0x4E, 0x5A, 0x43, 0x61])) (by decide +kernel)
  obtain ⟨t, h', ht⟩ := of_check (o := exec .decBuild (idleWith eight (bytes [0x4E, 0x5A, 0x43, 0x61, 0xFC])))
    (fun t => decide (follow t.nodes t.root [true] = some 2#10)) (by decide +kernel)
  refine ⟨_, _, s2, idleWith eight (bytes [0x4E, 0x5A, 0x43, 0x61, 0xFC]), inv_idleWith eight six, rfl, test_encBuild_six, rfl, h,
    inv_idleWith _ _, rfl, ?_, by rfl, t, h', of_decide_eq_true ht⟩
  rw [of_decide_eq_true h2]
  rfl

theorem witness_TokenNOpensANode : (parsing []).status.phase = .parsingTree ∧ (parsing []).nodeN ≠ nodeCap := ⟨rfl, by decide⟩

theorem framesOk_cons {s : State} {f : Frame} {fs : List Frame} {n : Node} {l r : Option Index} (hn : s.node? f.node = some n)
    (hk : n.kind = .internal l r) (h : ∀ g ∈ fs, ∃ n l r, s.node? g.node = some n ∧ n.kind = .internal l r) :
    ∀ g ∈ f :: fs, ∃ n l r, s.node? g.node = some n ∧ n.kind = .internal l r :=
  List.forall_mem_cons.mpr ⟨⟨n, l, r, hn, hk⟩, h⟩

theorem framesOk_nil {s : State} : ∀ g ∈ ([] : List Frame), ∃ n l r, s.node? g.node = some n ∧ n.kind = .internal l r := nofun

/-- Each clause: a left child due, no activation waiting, a right child due, a right child due inside a left one (with the
finished and the waiting activations of the second clause), and a token after which the activations are looked at. -/
theorem witness_LeafTokensCloseABranch :
    (∃ s, s.status.phase = .parsingTree ∧ s.nodeN < nodeCap ∧ FramesOk s ∧ s.pend = ⟨0#10, 0, 0, .left⟩ :: [] ∧
      ∃ n l r, s.node? 0#10 = some n ∧ n.kind = .internal l r) ∧
    (∃ s, s.status.phase = .parsingTree ∧ s.nodeN < nodeCap ∧ FramesOk s ∧ s.pend = []) ∧
    (∃ s, s.status.phase = .parsingTree ∧ s.nodeN < nodeCap ∧ FramesOk s ∧ s.pend = [⟨0#10, 0, 0, .right⟩] ∧
      ∃ n l r, s.node? 0#10 = some n ∧ n.kind = .internal l r) ∧
    (∃ s, s.status.phase = .parsingTree ∧ s.nodeN < nodeCap ∧ FramesOk s ∧
      s.pend = ⟨1#10, 1, 0, .right⟩ :: ⟨0#10, 0, 0, .left⟩ :: [] ∧ 1#10 ≠ 0#10 ∧
      (∃ n l r, s.node? 1#10 = some n ∧ n.kind = .internal l r) ∧ (∃ m l r, s.node? 0#10 = some m ∧ m.kind = .internal l r) ∧
      ∃ finished waiting : List Frame, s.pend = finished ++ waiting ∧ finished ≠ [] ∧ waiting ≠ [] ∧
        (∀ f ∈ finished, f.side = .right) ∧ ∀ f ∈ waiting.head?, f.side = .left) ∧
    (∃ t, (parsing []).status.phase = .parsingTree ∧ (parsing []).nodeN ≤ nodeCap ∧ FramesOk (parsing []) ∧
      exec .tokN (parsing []) = .next t) := by
  have left : FramesOk (parsing []) := framesOk_cons rfl rfl framesOk_nil
  have right : FramesOk { parsing [] with pend := [⟨0#10, 0, 0, .right⟩] } := framesOk_cons rfl rfl framesOk_nil
  have inner : FramesOk parsingRight := framesOk_cons rfl rfl (framesOk_cons rfl rfl framesOk_nil)
  exact ⟨⟨parsing [], rfl, by decide, left, rfl, _, _, _, rfl, rfl⟩,
    ⟨{ parsing [] with nodes := [], pend := [] }, rfl, by decide, framesOk_nil, rfl⟩,
    ⟨_, rfl, by decide, right, rfl, _, _, _, rfl, rfl⟩,
    ⟨parsingRight, rfl, by decide, inner, rfl, by decide, ⟨_, _, _, rfl, rfl⟩, ⟨_, _, _, rfl, rfl⟩,
      [⟨1#10, 1, 0, .right⟩], [⟨0#10, 0, 0, .left⟩], rfl, by decide, by decide, by simp, by simp⟩,
    ⟨_, rfl, by decide, left, rfl⟩⟩

theorem witness_TokenAtFullArenaIsRejected :
    Instr.isToken (.tokC 0x061#9) = true ∧ fullArena.status.phase = .parsingTree ∧ fullArena.nodeN = nodeCap :=
  ⟨rfl, rfl, by simp [fullArena, State.nodeN, nodeCap]⟩

theorem witness_TokenOutsideAParseIsRefused : Instr.isToken .tokN = true ∧ State.reset.status.phase ≠ .parsingTree := ⟨rfl, by decide⟩

theorem witness_DecBuildIsTheRunOfItsTokens : ∃ s, Inv s ∧ s.status.phase = .idle ∧ s.input = bytes [0x4E, 0x5A, 0x43, 0x61] :=
  ⟨_, inv_idleWith eight (bytes [0x4E, 0x5A, 0x43, 0x61]), rfl, rfl⟩

/-- Vector DV6: the sentinel's code comes first. -/
theorem witness_DecDecodeStopsAtTheSentinel :
    ∃ s emitted left, Inv s ∧ s.status.phase = .ready ∧ s.tree? = some decTree ∧
      decodeBits decTree decTree (streamBits s.cfg s.input) = (emitted, some left) :=
  ⟨_, [0x61#8, 0x61#8], List.replicate 5 true, inv_decHeld eight .ready ⟨[0xDF#8], 0, []⟩ (by decide) rfl, rfl, by rfl,
    by decide +kernel⟩

/-- Vector DV5's case: a payload of ones never reaches the sentinel. -/
theorem witness_DecDecodeReportsTruncation :
    ∃ s emitted, Inv s ∧ s.status.phase = .ready ∧ s.tree? = some decTree ∧
      decodeBits decTree decTree (streamBits s.cfg s.input) = (emitted, none) :=
  ⟨_, List.replicate 8 0x61#8, inv_decHeld eight .ready ⟨[0xFF#8], 0, []⟩ (by decide) rfl, rfl, by rfl, by decide +kernel⟩

theorem witness_UnpackerInvertsThePacker :
    ∃ s, ∃ picks : List (Symbol × List Bool), Inv s ∧ s.status.phase = .ready ∧ s.tree? = some decTree ∧
      (∀ c ∈ picks, c ∈ decTree.codes ∧ c.1 ≠ sentinel) ∧ picks ≠ [] ∧ (sentinel, [false]) ∈ decTree.codes ∧
      s.input = payloadBytes s.cfg (picks.flatMap (·.2) ++ [false]) ++ [0xAD#8] :=
  ⟨_, [(0x061#9, [true])], inv_decHeld eight .ready ⟨[0x80#8, 0xAD#8], 0, []⟩ (by decide) rfl, rfl, by rfl, by decide, by decide,
    by decide, by decide +kernel⟩

/-- The whole of vector E6, encoded and attached to a decoder; an input with the gate off; the longest input of the third clause
(vector G3); one byte too many. -/
theorem witness_EncodeThenDecodeIsIdentity :
    (∃ s s1 s2 s3 d, Inv s ∧ s.status.phase = .idle ∧ s.mem.pos = 0 ∧ s.mem.out = [] ∧ s.mem.data ≠ [] ∧
      exec .encBuild s = .next s1 ∧ s1.status.last = .ok ∧ exec .encExport s1.rewind = .next s2 ∧ exec .encEncode s2 = .next s3 ∧
      Inv d ∧ d.status.phase = .idle ∧ d.cfg.W = s.cfg.W ∧ d.cfg.order = s.cfg.order ∧ d.mem = ⟨s3.mem.out, 0, []⟩) ∧
    (∃ s, Inv s ∧ s.status.phase = .idle ∧ s.gateEn = false ∧ s.input ≠ [] ∧ s.input.length ≤ s.cfg.maxCount) ∧
    (∃ s, Inv s ∧ s.status.phase = .idle ∧ s.gateEn = true ∧ s.input ≠ [] ∧ s.input.length ≤ s.cfg.maxCount ∧
      s.input.length + 1 = 5 + s.cfg.WB) ∧
    (∃ s, Inv s ∧ s.status.phase = .idle ∧ s.cfg.maxCount < s.input.length) := by
  refine ⟨?_, ⟨_, inv_gateOff eight [0x61#8], rfl, by decide, by decide, by decide⟩,
    ⟨_, inv_idleWith eight (List.replicate 5 0x61#8), rfl, by decide, by decide, by decide, rfl⟩,
    ⟨_, inv_idleWith narrow [0x61#8], rfl, by decide⟩⟩
  have whole : ((after (exec .encExport (encHeld .treeBuilt ⟨six, 6, []⟩).rewind)).any fun s2 =>
      (after (exec .encEncode s2)).any fun _ => true) = true := by decide +kernel
  obtain ⟨s2, h2, h⟩ := of_check _ whole
  obtain ⟨s3, h3, -⟩ := of_check _ h
  exact ⟨_, _, s2, s3, idleWith eight s3.mem.out, inv_idleWith eight six, rfl, rfl, rfl, by decide, test_encBuild_six, rfl, h2, h3,
    inv_idleWith _ _, rfl, rfl, rfl, rfl⟩

theorem witness_SessionEndRestoresResetValues : (encHeld .done ⟨six, 6, []⟩).status.phase.resting = true := rfl

end Sys2Proof.Tests
end

section
/-! SUPPORT. How the run of a command ends, as STATUS shows it: going on it leaves STATUS at a value known beforehand, and
raising it fails from that value with a session-fatal code (60_exceptions.md R246). Said once for every micro-operation and
then for every command. -/

namespace Sys2Proof.Machine

variable {α β : Type}

/-- A run that leaves STATUS at `σ` when it goes on, and at a failure from `σ` when it has raised. -/
inductive Run.Ends (σ : Status) : Run α → Prop where
  | go {a : α} {t : State} (h : t.status = σ) : Run.Ends σ (.go a t)
  | raised {e : Result} {t : State} (he : e.fatal = true) (h : t.status = σ.failed e) : Run.Ends σ (.raised t)
  | fault {f : Fault} : Run.Ends σ (.fault f)

theorem Run.Ends.failed_of_raised {σ : Status} {t : State} (h : (Run.raised t : Run α).Ends σ) :
    ∃ e : Result, e.fatal = true ∧ t.status = σ.failed e := by
  cases h; exact ⟨_, ‹_›, ‹_›⟩

theorem State.retOk_passed (p : Phase) (s : State) : (s.retOk p).status = s.status.passed p := rfl

theorem ends_raise {e : Result} (he : e.fatal = true) (s : State) : (Run.raised (s.raise e) : Run α).Ends s.status :=
  .raised he rfl

/-- Sequencing: the second part may move STATUS on, as long as a failure from there shows the same. -/
theorem Run.Ends.bind {σ τ : Status} {r : Run α} {k : α → State → Run β} (hr : r.Ends σ)
    (hk : ∀ a s, s.status = σ → (k a s).Ends τ) (hf : ∀ e, τ.failed e = σ.failed e := by intro _; rfl) :
    (r.bind k).Ends τ := by
  cases hr with
  | go h => exact hk _ _ h
  | raised he h => exact .raised he (h.trans (hf _).symm)
  | fault => exact .fault

/-- A node access moves no STATUS. -/
theorem readNode_bind_ends {σ : Status} {s : State} (i : Index) {k : Node → State → Run β} (hk : ∀ n, (k n s).Ends σ) :
    ((readNode i s).bind k).Ends σ := by
  obtain ⟨n, -, e⟩ | ⟨-, e⟩ := readNode_cases i s <;> rw [e]
  · exact hk n
  · exact .fault

/-! ### Encoder -/

theorem stCount_ends (b : Byte) (s : State) : (stCount b s).Ends s.status := by
  obtain ⟨-, e⟩ | ⟨-, e⟩ := stCount_cases b s <;> rw [e]
  · exact ends_raise rfl s
  · exact .go rfl

theorem tally_ends (n : Nat) (s : State) : (tally n s).Ends s.status := by
  induction n generalizing s with
  | zero => exact .go rfl
  | succ n ih =>
    unfold tally
    obtain ⟨-, e⟩ | ⟨b, rest, -, -, e⟩ := s.inRead_cases <;> rw [e]
    · exact .go rfl
    · exact (stCount_ends b _).bind fun _ u hu => hu ▸ ih u

theorem removeMin_ends (s : State) : (removeMin s).Ends s.status := by
  obtain ⟨-, e⟩ | ⟨i, others, -, e⟩ := removeMin_cases s <;> rw [e]
  · exact .fault
  · exact .go rfl

theorem tbMerge_ends (s : State) : (tbMerge s).Ends s.status :=
  (removeMin_ends s).bind fun a s1 h1 =>
  (h1 ▸ removeMin_ends s1 : (removeMin s1).Ends s.status).bind fun b _ h2 =>
  readNode_bind_ends a fun _ => readNode_bind_ends b fun _ => .go h2

theorem tbMergeAll_ends (n : Nat) (s : State) : (tbMergeAll n s).Ends s.status := by
  induction n generalizing s with
  | zero => exact .go rfl
  | succ n ih =>
    unfold tbMergeAll
    split
    · exact (tbMerge_ends s).bind fun _ u hu => hu ▸ ih u
    · exact .go rfl

theorem tbInit_status (s : State) : (tbInit s).status = s.status := by rw [tbInit_frame s]

theorem tbBuild_ends (s : State) : (tbBuild s).Ends s.status := by
  unfold tbBuild
  rw [← tbInit_status s]
  refine (tbMergeAll_ends _ (tbInit s)).bind fun _ u hu => ?_
  split
  · exact .go hu
  · exact .fault

theorem caVisit_ends (fuel : Nat) (i : Index) (len val : Nat) (s : State) : (caVisit fuel i len val s).Ends s.status := by
  induction fuel generalizing i len val s with
  | zero => exact .fault
  | succ fuel ih =>
    refine readNode_bind_ends i fun n => ?_
    split
    · exact .go rfl
    · exact (ih _ _ _ _).bind fun _ u hu => hu ▸ ih _ _ _ u
    · exact .fault

theorem caAssign_ends (s : State) : (caAssign s).Ends s.status :=
  caVisit_ends (codeMax + 1) s.root 0 0 { s with hdrBytes := 0#10, payloadBits := 0 }

theorem encGate_ends (s : State) : (encGate s).Ends (s.status.passed .treeBuilt) := by
  unfold encGate
  split
  · exact .raised (e := .notCompressible) rfl rfl
  · exact .go rfl

theorem encTree_ends (s : State) : (encTree s).Ends (s.status.passed .treeBuilt) := by
  unfold encTree
  split
  · exact .raised (e := .emptyInput) rfl rfl
  · refine (tbBuild_ends s).bind fun _ s1 h1 => ?_
    refine (caAssign_ends s1).bind (fun _ s2 h2 => ?_) fun _ => by rw [h1]; rfl
    have h : ((s2.setPhase .treeBuilt).status.passed .treeBuilt) = s.status.passed .treeBuilt := by
      rw [State.setPhase_status, h2, h1]; rfl
    exact h ▸ encGate_ends (s2.setPhase .treeBuilt)

theorem encBuildRun_ends (s : State) :
    (encBuildRun s).Ends (Status.passed { s.status with mode := .encoder } .treeBuilt) :=
  (tally_ends _ _).bind fun _ s1 h1 => by
    have h : s1.status.passed .treeBuilt = Status.passed { s.status with mode := .encoder } .treeBuilt := by rw [h1]; rfl
    exact h ▸ encTree_ends s1

theorem tcEmit_ends (fuel : Nat) (i : Index) (s : State) : (tcEmit fuel i s).Ends s.status := by
  induction fuel generalizing i s with
  | zero => exact .fault
  | succ fuel ih =>
    refine readNode_bind_ends i fun n => ?_
    split
    · split <;> exact .go rfl
    · exact (ih _ _).bind fun _ u hu => hu ▸ ih _ u
    · exact .fault

theorem encExportRun_ends (s : State) : (encExportRun s).Ends (s.status.passed .exporting) :=
  (tcEmit_ends (codeMax + 1) s.root (s.setPhase .exporting)).bind fun _ s1 h1 => .go (by rw [State.retOk_passed, h1]; rfl)

theorem bpPush_status (n : Nat) (val : BitVec 256) (s : State) : (bpPush n val s).status = s.status := by
  obtain ⟨a, c, bytes, e⟩ := bpPush_frame n val s
  rw [e]; rfl

theorem bpFlush_status (s : State) : (bpFlush s).status = s.status := by
  obtain ⟨-, e⟩ | ⟨-, e⟩ := bpFlush_cases s <;> rw [e]; rfl

theorem pushCode_ends (i : Index) (s : State) : (pushCode i s).Ends s.status :=
  readNode_bind_ends i fun n => .go (bpPush_status n.codeLen.toNat n.codeVal s)

theorem encSymbol_ends (b : Byte) (s : State) : (encSymbol b s).Ends s.status := by
  unfold encSymbol
  split
  · exact .raised (e := .noCode) rfl rfl
  · exact pushCode_ends _ s

theorem packLoop_ends (n : Nat) (s : State) : (packLoop n s).Ends s.status := by
  induction n generalizing s with
  | zero => exact .go rfl
  | succ n ih =>
    unfold packLoop
    obtain ⟨-, e⟩ | ⟨b, rest, -, -, e⟩ := s.inRead_cases <;> rw [e]
    · exact .go rfl
    · exact (encSymbol_ends b _).bind fun _ u hu => hu ▸ ih u

theorem pushSentinel_ends (s : State) : (pushSentinel s).Ends s.status := by
  unfold pushSentinel
  split
  · exact .fault
  · exact pushCode_ends _ s

theorem encEncodeRun_ends (s : State) : (encEncodeRun s).Ends (s.status.passed .done) :=
  (packLoop_ends _ _).bind fun _ s1 h1 =>
  (h1 ▸ pushSentinel_ends s1 : (pushSentinel s1).Ends _).bind fun _ s2 h2 =>
  .go (by rw [State.retOk_passed, bpFlush_status, h2]; rfl)

/-! ### Decoder -/

theorem tcReturn_ends (fs : List Frame) (j : Index) (s : State) : (tcReturn fs j s).Ends s.status := by
  induction fs generalizing j s with
  | nil => exact .go rfl
  | cons f fs ih =>
    refine readNode_bind_ends f.node fun n => ?_
    dsimp only
    split
    · exact .go rfl
    · exact ih f.node (s.setNode f.node (n.withChild f.side j))

theorem tokenN_ends (s : State) : (tokenN s).Ends s.status := by
  unfold tokenN
  split
  · exact ends_raise rfl s
  · exact .go rfl

theorem tokenLeaf_ends (symbol : Symbol) (s : State) : (tokenLeaf symbol s).Ends s.status := by
  unfold tokenLeaf
  split
  · exact ends_raise rfl s
  · exact tcReturn_ends _ _ (s.alloc _)

theorem tokenZ_ends (s : State) : (tokenZ s).Ends s.status := by
  unfold tokenZ
  split
  · exact ends_raise rfl s
  · exact tokenLeaf_ends _ { s with sentCount := s.sentCount + 1#9 }

theorem runToken_ends (i : Instr) (s : State) : (runToken i s).Ends s.status := by
  cases i with
  | tokN => exact tokenN_ends s
  | tokC symbol => exact tokenLeaf_ends symbol s
  | tokZ => exact tokenZ_ends s
  | encBuild | encExport | encEncode | decBuild | decDecode | sessionEnd => exact ends_raise rfl s

/-- A fetch moves the cursor of IN and nothing else (42_tree_codec.md R154, R158). -/
theorem fetchToken_frame (s : State) : ∃ pos, (fetchToken s).2 = { s with mem := { s.mem with pos := pos } } := by
  unfold fetchToken
  split
  · exact ⟨_, rfl⟩
  · obtain ⟨-, e⟩ | ⟨b, rest, -, -, e⟩ := s.inRead_cases <;> rw [e] <;> exact ⟨_, rfl⟩

theorem fetchToken_status (s : State) : (fetchToken s).2.status = s.status := by
  obtain ⟨pos, e⟩ := fetchToken_frame s
  rw [e]

theorem fetchToken_nodes (s : State) : (fetchToken s).2.nodes = s.nodes := by
  obtain ⟨pos, e⟩ := fetchToken_frame s
  rw [e]

theorem fetchToken_pend (s : State) : (fetchToken s).2.pend = s.pend := by
  obtain ⟨pos, e⟩ := fetchToken_frame s
  rw [e]

theorem importLoop_ends (n : Nat) (s : State) : (importLoop n s).Ends s.status := by
  induction n generalizing s with
  | zero => exact ends_raise rfl s
  | succ n ih =>
    unfold importLoop
    rw [← fetchToken_status s]
    split
    next u hu => exact hu ▸ ends_raise rfl u
    next i u hu =>
      rw [hu]
      refine (runToken_ends i u).bind fun _ v hv => ?_
      split
      · exact .go hv
      · exact hv ▸ ih v

theorem tcImport_ends (s : State) : (tcImport s).Ends s.status :=
  importLoop_ends s.mem.rest.length { s with pend := [] }

theorem tcCheck_ends (s : State) : (tcCheck s).Ends s.status := by
  unfold tcCheck
  split
  · refine readNode_bind_ends s.root fun n => ?_
    split
    · exact ends_raise rfl s
    · exact .go rfl
  · exact ends_raise rfl s

theorem decFinish_ends (s : State) : (decFinish s).Ends (s.status.passed .ready) :=
  (tcCheck_ends s).bind fun _ s1 h1 => .go (by rw [State.retOk_passed, ← h1])

theorem decBuildRun_ends (s : State) :
    (decBuildRun s).Ends (Status.passed { s.status with mode := .decoder } .ready) :=
  (tcImport_ends (decStart s)).bind fun _ s1 h1 => by
    have h : s1.status.passed .ready = Status.passed { s.status with mode := .decoder } .ready := by rw [h1]; rfl
    exact h ▸ decFinish_ends s1

theorem buLoad_ends (s : State) : (buLoad s).Ends s.status := by
  obtain ⟨-, e⟩ | ⟨-, e⟩ := buLoad_cases s <;> rw [e]
  · exact .go rfl
  · exact .raised (e := .truncatedStream) rfl rfl

theorem buStep_ends (s : State) : (buStep s).Ends s.status := by
  cases h : buStep s with
  | go stop t =>
    obtain ⟨c, bytes, rfl⟩ := buStep_frame h
    exact .go rfl
  | raised t => exact absurd h buStep_not_raised
  | fault f => exact .fault

theorem buWalk_ends (n : Nat) (s : State) : (buWalk n s).Ends s.status := by
  induction n generalizing s with
  | zero => exact .go rfl
  | succ n ih =>
    unfold buWalk
    split
    · exact .go rfl
    · refine (buStep_ends s).bind fun stop u hu => ?_
      split
      · exact .go hu
      · exact hu ▸ ih u

theorem buLoop_ends (n : Nat) (s : State) : (buLoop n s).Ends s.status := by
  induction n generalizing s with
  | zero => exact (buLoad_ends s).bind fun _ u hu => .go hu
  | succ n ih =>
    refine (buLoad_ends s).bind fun _ u hu => ?_
    refine (hu ▸ buWalk_ends u.cfg.W u : (buWalk u.cfg.W u).Ends s.status).bind fun stop v hv => ?_
    split
    · exact .go hv
    · exact hv ▸ ih v

theorem decDecodeRun_ends (s : State) : (decDecodeRun s).Ends (s.status.passed .done) :=
  (buLoop_ends _ _ : (buRun (s.setPhase .decoding)).Ends _).bind fun _ s1 h1 => .go (by rw [State.retOk_passed, h1]; rfl)

end Sys2Proof.Machine
end

section
/-! SUPPORT. What a command leaves in STATUS, said once for the six commands, and the statement of 10_state.md R38 about ERR,
PERR and LAST that follows from it. -/

namespace Sys2Proof.Machine

variable {α : Type}

theorem Run.Ends.of_next {σ : Status} {r : Run α} {t : State} (hr : r.Ends σ) (h : r.outcome = .next t) :
    t.status = σ ∨ ∃ e : Result, e.fatal = true ∧ t.status = σ.failed e := by
  cases hr with
  | go hs => cases h; exact .inl hs
  | raised he hs => cases h; exact .inr ⟨_, he, hs⟩
  | fault => cases h

theorem Status.reset_word : Status.reset.word = 0x0000#16 := by decide

/-- STATUS after a command that ends without a failure (10_state.md R45); a header token is no command. -/
def doneStatus (i : Instr) (σ : Status) : Status :=
  match i with
  | .encBuild => Status.passed { σ with mode := .encoder } .treeBuilt
  | .encExport => σ.passed .exporting
  | .encEncode => σ.passed .done
  | .decBuild => Status.passed { σ with mode := .decoder } .ready
  | .decDecode => σ.passed .done
  | .sessionEnd => Status.reset
  | .tokN | .tokC _ | .tokZ => σ

theorem exec_sessionEnd_eq (s : State) :
    exec .sessionEnd s = admitted s.status.phase.resting s fun t => .go () t.endSession := rfl

theorem exec_sessionEnd {s : State} (hs : s.status.phase.resting = true) : exec .sessionEnd s = .next s.endSession := by
  rw [exec_sessionEnd_eq, hs]; rfl

theorem sessionEnd_admits_iff (p : Phase) : p.resting = true ↔ admits .sessionEnd p := by
  cases p <;> simp [Phase.resting, admits]

theorem admitted_status_cases {P : Prop} {ok : Bool} {s t : State} {run : State → Run Unit} {σ : Status}
    (hok : ok = true ↔ P) (hr : (run s).Ends σ) (h : admitted ok s run = .next t) :
    (¬ P ∧ t = s.refuseBadState) ∨ (P ∧ (t.status = σ ∨ ∃ e : Result, e.fatal = true ∧ t.status = σ.failed e)) := by
  obtain ⟨ho, e⟩ | ⟨ho, e⟩ := admitted_cases ok s run <;> rw [e] at h
  · exact .inr ⟨hok.mp ho, hr.of_next h⟩
  · cases h
    exact .inl ⟨fun p => by simp [hok.mpr p] at ho, rfl⟩

/-- Everything a command can leave in STATUS: a refusal where STATE does not admit it, else its success or its failure. -/
theorem exec_status_cases {i : Instr} {s t : State} (hi : i.isToken = false) (h : exec i s = .next t) :
    (¬ admits i s.status.phase ∧ t = s.refuseBadState) ∨
    (admits i s.status.phase ∧ (t.status = doneStatus i s.status ∨
      ∃ e : Result, e.fatal = true ∧ t.status = (doneStatus i s.status).failed e)) := by
  cases i with
  | encBuild => exact admitted_status_cases (by simp [admits]) (encBuildRun_ends s) h
  | encExport => exact admitted_status_cases (by simp [admits]) (encExportRun_ends s) h
  | encEncode => exact admitted_status_cases (by simp [admits]) (encEncodeRun_ends s) h
  | decBuild => exact admitted_status_cases (by simp [admits]) (decBuildRun_ends s) h
  | decDecode => exact admitted_status_cases (by simp [admits]) (decDecodeRun_ends s) h
  | sessionEnd =>
    rw [exec_sessionEnd_eq] at h
    refine admitted_status_cases (sessionEnd_admits_iff _) ?_ h
    exact .go rfl
  | tokN | tokC | tokZ => cases hi

theorem doneStatus_last {i : Instr} (hi : i.isToken = false) (σ : Status) : (doneStatus i σ).last = .ok := by
  cases i with
  | tokN | tokC | tokZ => cases hi
  | _ => rfl

theorem doneStatus_phase {i : Instr} (hi : i.isToken = false) (σ : Status) : (doneStatus i σ).phase ≠ .rejected := by
  cases i with
  | tokN | tokC | tokZ => cases hi
  | _ => simp [doneStatus, Status.passed, Status.reset]

/-- No command but SESSION_END writes ERR or a PERR bit when it succeeds (10_state.md R38). -/
theorem doneStatus_errors {i : Instr} (hi : i ≠ .sessionEnd) (σ : Status) :
    (doneStatus i σ).err = σ.err ∧ (doneStatus i σ).perrIllegal = σ.perrIllegal ∧
    (doneStatus i σ).perrBadState = σ.perrBadState := by
  cases i with
  | sessionEnd => exact absurd rfl hi
  | _ => exact ⟨rfl, rfl, rfl⟩

theorem not_admits_rejected {i : Instr} (hi : i ≠ .sessionEnd) : ¬ admits i .rejected := by
  cases i <;> simp_all [admits]

theorem Result.ne_ok_of_fatal {e : Result} (h : e.fatal = true) : e ≠ .ok := by
  rintro rfl
  cases h

theorem Result.ne_badState_of_fatal {e : Result} (h : e.fatal = true) : e ≠ .badState := by
  rintro rfl
  cases h

theorem issue_of_no_command {v : Byte} (s : State) (hv : ∀ i, decodeCommand v ≠ .ok i) : issue v s = .next s.refuseIllegal := by
  unfold issue
  split
  next i hi => exact absurd hi (hv i)
  next => rfl

theorem regWrite_status {n : Nat} {v : Byte} {s t : State} (hn : n ≠ 0) (h : regWrite n v s = .next t) :
    t.status = s.status := by
  unfold regWrite at h
  split at h
  · exact absurd rfl hn
  · cases h; rfl
  · cases h; rfl

/-- The host moves STATUS with a command or a reset only. -/
theorem hostAct_status {a : HostAction} {s t : State} (hw : ∀ v, a ≠ .regWrite 0 v) (hr : a ≠ .rst)
    (hd : ∀ v, a ≠ .rstDuring v) (h : hostAct a s = .next t) : t.status = s.status := by
  cases a with
  | regWrite n v => exact regWrite_status (fun hn => hw v (by rw [hn])) h
  | rst => exact absurd rfl hr
  | rstDuring v => exact absurd rfl (hd v)
  | stopUnlessOk n =>
    cases h
    split <;> rfl
  | attachIn | rewind | attachOut | takeOut | regRead => cases h; rfl

/-- The command half of 10_state.md R38, for a command other than SESSION_END. -/
theorem exec_err_perr_last {i : Instr} {s t : State} (hs : Inv s) (hi : i.isToken = false) (hne : i ≠ .sessionEnd)
    (h : exec i s = .next t) :
    (t.status.last.fatal = true → t.status.err = t.status.last) ∧
    (t.status.last.fatal = false → t.status.err = s.status.err) ∧
    (s.status.err ≠ .ok → t.status.err = s.status.err) ∧
    (t.status.err ≠ .ok ↔ t.status.phase = .rejected) ∧
    (¬ admits i s.status.phase → t.status.last = .badState) ∧
    (admits i s.status.phase → t.status.phase ≠ .rejected → t.status.last = .ok) ∧
    (admits i s.status.phase → t.status.phase = .rejected → t.status.last.fatal = true) ∧
    t.status.perrIllegal = s.status.perrIllegal ∧
    (t.status.perrBadState = true ↔ s.status.perrBadState = true ∨ t.status.last = .badState) := by
  obtain ⟨herr, hill, hbad⟩ := doneStatus_errors hne s.status
  obtain ⟨hna, rfl⟩ | ⟨ha, ht⟩ := exec_status_cases hi h
  · simp [hna, hs.err_rejected, Result.fatal]
  · have hok : s.status.err = .ok := by
      by_contra hn
      exact not_admits_rejected hne (hs.err_rejected.mp hn ▸ ha)
    obtain ht | ⟨e, he, ht⟩ := ht <;> rw [ht]
    · simp [doneStatus_last hi, doneStatus_phase hi, herr, hill, hbad, hok, ha, Result.fatal]
    · simp [Status.failed, he, hill, hbad, hok, ha, Result.ne_ok_of_fatal he, Result.ne_badState_of_fatal he]

/-- Settles O17: the commands by what they leave in STATUS, the host's other actions by their frames. -/
theorem errPerrAndLast : Obligations.ErrPerrAndLast := by
  intro s hs
  exact ⟨fun i t hi hne h => exec_err_perr_last hs hi hne h,
    fun v hv => ⟨_, issue_of_no_command s hv, rfl, rfl, rfl, rfl⟩,
    ⟨_, exec_sessionEnd hs.resting, Status.reset_word⟩, ⟨_, rfl, Status.reset_word⟩,
    fun a t hw hr hd h => hostAct_status hw hr hd h⟩

end Sys2Proof.Machine
end

section
/-! SUPPORT. The values of reset and the register map (10_state.md R34, R48). -/

namespace Sys2Proof.Machine

theorem State.resetWith_values (c : Config) : ResetValues (State.resetWith c) := by
  refine ⟨Status.reset_word, rfl, rfl, rfl, rfl, rfl, rfl, fun symbol => ?_, fun symbol => ?_, rfl, rfl, rfl, rfl, rfl, rfl⟩
  · simp [State.leafIndex, State.resetWith]
  · have := symbol.isLt
    by_cases h : symbol.val = 256
    · simp [State.freqOf, h]
    · simp [State.freqOf, State.resetWith, h, show symbol.val < 256 by omega]

/-- Settles O6: `rst` leads to the power-on state with the streams kept, and no value of the table depends on the streams. -/
theorem resetGivesTheSpecValues : Obligations.ResetGivesTheSpecValues :=
  ⟨State.resetWith_values, fun s => ⟨s.resetBlock, rfl, State.resetWith_values s.cfg, rfl, rfl⟩⟩

/-! ### The register map -/

theorem regRead_of_gt {n : Nat} (hn : 7 < n) (s : State) : regRead n s = 0 := by
  unfold regRead
  split
  case h_8 => rfl
  all_goals omega

/-- Only CMD and CTRL take a write. -/
theorem regWrite_of_ne {n : Nat} (h0 : n ≠ 0) (h2 : n ≠ 2) (v : Byte) (s : State) : regWrite n v s = .next s := by
  unfold regWrite
  split
  · exact absurd rfl h0
  · exact absurd rfl h2
  · rfl

theorem regRead_resetWith (c : Config) (n : Nat) : regRead n (State.resetWith c) = if n = 2 then 1 else 0 := by
  unfold regRead
  split
  case h_1 => exact congrArg BitVec.toNat Status.reset_word
  case h_8 h2 _ _ _ _ _ => exact (if_neg h2).symm
  all_goals rfl

/-- IN_COUNT fits FW bits: its bound 2^FW − 2 lies below 2^FW (10_state.md R40). -/
theorem Inv.inCount_lt {s : State} (hs : Inv s) : s.inCount < 2 ^ s.cfg.FW := by
  have h := hs.inCount
  have := Nat.two_pow_pos s.cfg.FW
  unfold Config.maxCount at h
  omega

/-- NODE_N fits 10 bits (10_state.md R43). -/
theorem Inv.nodeN_lt {s : State} (hs : Inv s) : s.nodeN < 2 ^ 10 :=
  Nat.lt_of_le_of_lt hs.arena (by decide)

/-- Settles O8: the map row by row, the widths from the invariant. -/
theorem registerMap : Obligations.RegisterMap :=
  ⟨fun s => ⟨rfl, rfl, rfl, rfl, rfl, rfl, rfl, rfl, fun _ hn => regRead_of_gt hn s⟩,
    fun s _ v h0 h2 => regWrite_of_ne h0 h2 v s,
    fun _ _ => rfl,
    fun _ hs => ⟨hs.inCount_lt, hs.payloadBits, hs.nodeN_lt⟩,
    regRead_resetWith,
    fun _ _ => ⟨rfl, rfl⟩⟩

end Sys2Proof.Machine
end

section
/-! SUPPORT. The tree an arena holds at an index, with and without the codes of its nodes: two relations between the arena and
`Tree`, their frames, and what the second says of every path (10_state.md R25). -/

namespace Sys2Proof.Machine

/-! ### Trees -/

/-- The number of steps to the deepest leaf. -/
def Tree.height : Tree → Nat
  | .leaf _ => 0
  | .node l r => max l.height r.height + 1

/-- A strictly binary tree of height h has at least 2h + 1 nodes (10_state.md R24). -/
theorem Tree.two_mul_height_lt_size (t : Tree) : 2 * t.height < t.size := by
  induction t with
  | leaf => simp [Tree.height, Tree.size]
  | node l r ihl ihr =>
    have := Nat.zero_le l.height
    simp only [Tree.height, Tree.size]
    omega

/-- A tree that fits the arena is no deeper than CODE_MAX (00_scope.md R6). -/
theorem Tree.height_le_codeMax (t : Tree) (h : t.size ≤ nodeCap) : t.height ≤ codeMax := by
  have := t.two_mul_height_lt_size
  simp only [nodeCap, codeMax] at *
  omega

theorem Tree.symbols_ne_nil (t : Tree) : t.symbols ≠ [] := by
  induction t with
  | leaf => simp [Tree.symbols]
  | node l r ihl _ => simp [Tree.symbols, ihl]

/-- Trees of disjoint symbols: what lies in one lies not in the other. -/
theorem Tree.not_subset_of_disjoint {t : Tree} {l k : List Symbol} (hd : l.Disjoint k) (hl : t.symbols ⊆ l) :
    ¬ t.symbols ⊆ k := by
  intro hk
  obtain ⟨x, hx⟩ := List.exists_mem_of_ne_nil _ t.symbols_ne_nil
  exact hd (hl hx) (hk hx)

/-! ### The tree at an index -/

/-- The arena holds the tree at the index. -/
inductive Holds (nodes : List Node) : Index → Tree → Prop where
  | leaf {i : Index} {n : Node} {symbol : Symbol} (hn : nodes[i.toNat]? = some n) (hk : n.kind = .leaf symbol) :
      Holds nodes i (.leaf symbol)
  | node {i : Index} {n : Node} {l r : Index} {a b : Tree} (hn : nodes[i.toNat]? = some n)
      (hk : n.kind = .internal (some l) (some r)) (ha : Holds nodes l a) (hb : Holds nodes r b) : Holds nodes i (.node a b)

/-- `Holds` is what `readTree` reads with enough fuel. -/
theorem Holds.readTree_eq {nodes : List Node} {i : Index} {t : Tree} (h : Holds nodes i t) {fuel : Nat} (hf : t.height < fuel) :
    readTree fuel nodes i = some t := by
  induction h generalizing fuel with
  | leaf hn hk =>
    obtain ⟨fuel, rfl⟩ := Nat.exists_eq_add_of_lt hf
    simp [readTree, hn, hk]
  | node hn hk _ _ iha ihb =>
    cases fuel with
    | zero => exact absurd hf (Nat.not_lt_zero _)
    | succ fuel =>
      simp only [Tree.height] at hf
      simp [readTree, hn, hk, iha (fuel := fuel) (by omega), ihb (fuel := fuel) (by omega)]

theorem holds_of_readTree {fuel : Nat} {nodes : List Node} {i : Index} {t : Tree} (h : readTree fuel nodes i = some t) :
    Holds nodes i t := by
  induction fuel generalizing i t with
  | zero => cases h
  | succ fuel ih =>
    unfold readTree at h
    split at h
    · cases h
    next n hn =>
      split at h
      next symbol hk => cases h; exact .leaf hn hk
      next l r hk =>
        split at h
        next a b ha hb => cases h; exact .node hn hk (ih ha) (ih hb)
        next => cases h
      next => cases h

theorem Holds.lt_length {nodes : List Node} {i : Index} {t : Tree} (h : Holds nodes i t) : i.toNat < nodes.length := by
  cases h with
  | leaf hn => exact (List.getElem?_eq_some_iff.mp hn).1
  | node hn => exact (List.getElem?_eq_some_iff.mp hn).1

theorem Holds.unique {nodes : List Node} {i : Index} {t u : Tree} (h : Holds nodes i t) (h' : Holds nodes i u) : t = u := by
  induction h generalizing u with
  | leaf hn hk =>
    cases h' with
    | leaf hn' hk' => cases hn.symm.trans hn'; cases hk.symm.trans hk'; rfl
    | node hn' hk' => cases hn.symm.trans hn'; cases hk.symm.trans hk'
  | node hn hk _ _ iha ihb =>
    cases h' with
    | leaf hn' hk' => cases hn.symm.trans hn'; cases hk.symm.trans hk'
    | node hn' hk' ha' hb' =>
      cases hn.symm.trans hn'; cases hk.symm.trans hk'
      rw [iha ha', ihb hb']

/-- The tree depends on the kinds of the entries only. -/
theorem Holds.of_kinds {nodes nodes' : List Node} {i : Index} {t : Tree} (h : Holds nodes i t)
    (hk : ∀ (k : Nat) (n : Node), nodes[k]? = some n → ∃ n', nodes'[k]? = some n' ∧ n'.kind = n.kind) : Holds nodes' i t := by
  induction h with
  | leaf hn hkind =>
    obtain ⟨n', hn', e⟩ := hk _ _ hn
    exact .leaf hn' (e.trans hkind)
  | node hn hkind _ _ iha ihb =>
    obtain ⟨n', hn', e⟩ := hk _ _ hn
    exact .node hn' (e.trans hkind) iha ihb

theorem Holds.append {nodes : List Node} {i : Index} {t : Tree} (h : Holds nodes i t) (more : List Node) :
    Holds (nodes ++ more) i t :=
  h.of_kinds fun k n hn => ⟨n, by rw [List.getElem?_append_left (List.getElem?_eq_some_iff.mp hn).1, hn], rfl⟩

/-! ### The coded tree at an index -/

/-- The arena holds the tree at the index, and the code of each node is its place below `len` and `val`, as `visit` and `parse`
count places (41_code_assigner.md R141; 42_tree_codec.md R153). -/
inductive Coded (nodes : List Node) : Index → Tree → Nat → Nat → Prop where
  | leaf {i : Index} {symbol : Symbol} {freq len val : Nat}
      (hn : nodes[i.toNat]? = some ⟨.leaf symbol, freq, BitVec.ofNat 9 len, BitVec.ofNat 256 val⟩) :
      Coded nodes i (.leaf symbol) len val
  | node {i l r : Index} {a b : Tree} {freq len val : Nat}
      (hn : nodes[i.toNat]? = some ⟨.internal (some l) (some r), freq, BitVec.ofNat 9 len, BitVec.ofNat 256 val⟩)
      (ha : Coded nodes l a (len + 1) (2 * val)) (hb : Coded nodes r b (len + 1) (2 * val + 1)) :
      Coded nodes i (.node a b) len val

theorem Coded.holds {nodes : List Node} {i : Index} {t : Tree} {len val : Nat} (h : Coded nodes i t len val) :
    Holds nodes i t := by
  induction h with
  | leaf hn => exact .leaf hn rfl
  | node hn _ _ iha ihb => exact .node hn rfl iha ihb

/-- A coded tree stays as it is while the entries of its sub-trees do. -/
theorem Coded.congr {nodes nodes' : List Node} {i : Index} {t : Tree} {len val : Nat} (h : Coded nodes i t len val)
    (heq : ∀ (k : Index) (u : Tree), Holds nodes k u → u.symbols ⊆ t.symbols → nodes'[k.toNat]? = nodes[k.toNat]?) :
    Coded nodes' i t len val := by
  induction h with
  | leaf hn => exact .leaf ((heq _ _ (.leaf hn rfl) (List.Subset.refl _)).trans hn)
  | node hn ha hb iha ihb =>
    refine .node ((heq _ _ (.node hn rfl ha.holds hb.holds) (List.Subset.refl _)).trans hn)
      (iha fun k u hu hs => heq k u hu ?_) (ihb fun k u hu hs => heq k u hu ?_)
    · exact List.Subset.trans hs (List.subset_append_left _ _)
    · exact List.Subset.trans hs (List.subset_append_right _ _)

/-- What a path in a coded tree leads to: the code there is the place the path's bits count to. -/
theorem Coded.of_follow {nodes : List Node} {i j : Index} {t : Tree} {len val : Nat} {path : List Bool}
    (h : Coded nodes i t len val) (hf : follow nodes i path = some j) :
    path.length ≤ t.height ∧ ∃ n, nodes[j.toNat]? = some n ∧ n.codeLen = BitVec.ofNat 9 (len + path.length) ∧
      n.codeVal = BitVec.ofNat 256 (path.foldl (fun v b => 2 * v + b.toNat) val) := by
  induction h generalizing path with
  | leaf hn =>
    cases path with
    | nil =>
      simp only [follow] at hf
      split at hf <;> cases hf
      exact ⟨Nat.le_refl _, _, hn, rfl, rfl⟩
    | cons b path => simp [follow, hn] at hf
  | @node _ _ _ _ _ _ len _ hn _ _ iha ihb =>
    cases path with
    | nil =>
      simp only [follow] at hf
      split at hf <;> cases hf
      exact ⟨Nat.zero_le _, _, hn, rfl, rfl⟩
    | cons b path =>
      simp only [follow, hn] at hf
      have e : len + 1 + path.length = len + (b :: path).length := by rw [List.length_cons]; omega
      cases b with
      | false =>
        obtain ⟨hlen, n, hj, hl, hv⟩ := iha hf
        exact ⟨Nat.succ_le_succ (hlen.trans (Nat.le_max_left _ _)), n, hj, e ▸ hl, hv⟩
      | true =>
        obtain ⟨hlen, n, hj, hl, hv⟩ := ihb hf
        exact ⟨Nat.succ_le_succ (hlen.trans (Nat.le_max_right _ _)), n, hj, e ▸ hl, hv⟩

/-! ### Bit strings as numbers -/

theorem bitsNat_append_singleton (bits : List Bool) (b : Bool) : bitsNat (bits ++ [b]) = 2 * bitsNat bits + b.toNat := by
  simp [bitsNat]

theorem bitsNat_lt (bits : List Bool) : bitsNat bits < 2 ^ bits.length := by
  induction bits using List.reverseRecOn with
  | nil => exact Nat.one_pos
  | append_singleton bits b ih =>
    have := b.toNat_le
    rw [bitsNat_append_singleton, List.length_append, List.length_singleton, Nat.pow_succ]
    omega

/-- The number's bits, most significant first, are the string. -/
theorem testBit_bitsNat (bits : List Bool) {k : Nat} (hk : k < bits.length) :
    (bitsNat bits).testBit (bits.length - 1 - k) = bits[k] := by
  induction bits using List.reverseRecOn with
  | nil => exact absurd hk (Nat.not_lt_zero k)
  | append_singleton bits b ih =>
    rw [bitsNat_append_singleton]
    by_cases h : k < bits.length
    · have e : (bits ++ [b]).length - 1 - k = (bits.length - 1 - k) + 1 := by simp; omega
      rw [e, Nat.testBit_succ, show (2 * bitsNat bits + b.toNat) / 2 = bitsNat bits by have := b.toNat_le; omega, ih h,
        List.getElem_append_left h]
    · have e : k = bits.length := by simp at hk; omega
      subst e
      cases b <;> simp [Nat.testBit_zero]

/-- A node whose code fields are the length and the number of a path of at most CODE_MAX steps has the path for its code. -/
theorem codeBits_eq_path {n : Node} {path : List Bool} (hl : n.codeLen.toNat = path.length)
    (hv : n.codeVal.toNat = bitsNat path) : n.codeBits = path := by
  apply List.ext_getElem
  · simp [Node.codeBits, hl]
  · intro k _ hk
    simp [Node.codeBits, hl, ← BitVec.testBit_toNat, hv, testBit_bitsNat path hk]

/-- The codes of a coded tree no deeper than CODE_MAX are its paths (10_state.md R25). -/
theorem Coded.codes_are_paths {nodes : List Node} {i j : Index} {t : Tree} {path : List Bool} (h : Coded nodes i t 0 0)
    (ht : t.height ≤ codeMax) (hf : follow nodes i path = some j) :
    ∃ n, nodes[j.toNat]? = some n ∧ n.codeLen.toNat = path.length ∧ n.codeVal.toNat = bitsNat path ∧ n.codeBits = path := by
  obtain ⟨hlen, n, hn, hl, hv⟩ := h.of_follow hf
  have hmax : path.length ≤ 256 := hlen.trans ht
  have hlen' : n.codeLen.toNat = path.length := by
    rw [hl, BitVec.toNat_ofNat, Nat.zero_add]
    omega
  have hval : n.codeVal.toNat = bitsNat path := by
    rw [hv, BitVec.toNat_ofNat]
    exact Nat.mod_eq_of_lt ((bitsNat_lt path).trans_le (Nat.pow_le_pow_right (by decide) hmax))
  exact ⟨n, hn, hlen', hval, codeBits_eq_path hlen' hval⟩

end Sys2Proof.Machine
end

section
/-! SUPPORT. The tree a parse leaves: between two tokens the waiting activations hold coded sub-trees that together fill the
arena, and where the outermost `parse` has returned the whole arena is one coded tree (42_tree_codec.md R153). -/

namespace Sys2Proof.Machine

/-- An entry without a right child holds no tree yet. -/
theorem not_holds_of_right_none {nodes : List Node} {i : Index} {n : Node} {l : Option Index} (hn : nodes[i.toNat]? = some n)
    (hk : n.kind = .internal l none) (t : Tree) : ¬ Holds nodes i t := by
  intro h
  cases h with
  | leaf hn' hk' => cases hn.symm.trans hn'; cases hk.symm.trans hk'
  | node hn' hk' => cases hn.symm.trans hn'; cases hk.symm.trans hk'

/-- The activations wait in order: each node has the code of its place and the child parsed so far, the nodes differ, and the
number counts the entries of the arena they and their finished sub-trees take (42_tree_codec.md R153; 10_state.md R32). -/
inductive Waiting (nodes : List Node) : List Frame → Nat → Prop where
  | nil : Waiting nodes [] 0
  | left {fs : List Frame} {i : Index} {len val freq c : Nat} (hp : nextPlace fs = (len, val))
      (hn : nodes[i.toNat]? = some ⟨.internal none none, freq, BitVec.ofNat 9 len, BitVec.ofNat 256 val⟩)
      (hi : ∀ g ∈ fs, g.node ≠ i) (hw : Waiting nodes fs c) : Waiting nodes (⟨i, len, val, .left⟩ :: fs) (c + 1)
  | right {fs : List Frame} {i l : Index} {a : Tree} {len val freq c : Nat} (hp : nextPlace fs = (len, val))
      (hn : nodes[i.toNat]? = some ⟨.internal (some l) none, freq, BitVec.ofNat 9 len, BitVec.ofNat 256 val⟩)
      (ha : Coded nodes l a (len + 1) (2 * val))
      (hi : ∀ g ∈ fs, g.node ≠ i) (hw : Waiting nodes fs c) : Waiting nodes (⟨i, len, val, .right⟩ :: fs) (c + 1 + a.size)

theorem Waiting.lt_length {nodes : List Node} {fs : List Frame} {c : Nat} (h : Waiting nodes fs c) :
    ∀ g ∈ fs, g.node.toNat < nodes.length := by
  induction h with
  | nil => nofun
  | left _ hn _ _ ih => exact List.forall_mem_cons.mpr ⟨(List.getElem?_eq_some_iff.mp hn).1, ih⟩
  | right _ hn _ _ _ ih => exact List.forall_mem_cons.mpr ⟨(List.getElem?_eq_some_iff.mp hn).1, ih⟩

/-- The activations wait as before while their nodes and the finished sub-trees stay as they are. -/
theorem Waiting.congr {nodes nodes' : List Node} {fs : List Frame} {c : Nat} (h : Waiting nodes fs c)
    (ht : ∀ (k : Index) (u : Tree), Holds nodes k u → nodes'[k.toNat]? = nodes[k.toNat]?)
    (hf : ∀ g ∈ fs, nodes'[g.node.toNat]? = nodes[g.node.toNat]?) : Waiting nodes' fs c := by
  induction h with
  | nil => exact .nil
  | left hp hn hi _ ih =>
    obtain ⟨hhead, htail⟩ := List.forall_mem_cons.mp hf
    exact .left hp (hhead.trans hn) hi (ih htail)
  | right hp hn ha hi _ ih =>
    obtain ⟨hhead, htail⟩ := List.forall_mem_cons.mp hf
    exact .right hp (hhead.trans hn) (ha.congr fun k u hu _ => ht k u hu) hi (ih htail)

/-! A write to an entry that holds no tree -/

section Write

variable {nodes : List Node} {i : Index} (hi : ∀ t, ¬ Holds nodes i t) (n : Node)
include hi

theorem getElem?_set_of_holds {k : Index} {u : Tree} (hu : Holds nodes k u) :
    (nodes.set i.toNat n)[k.toNat]? = nodes[k.toNat]? := by
  refine List.getElem?_set_ne fun e => hi u ?_
  rwa [BitVec.eq_of_toNat_eq e]

theorem Coded.set {j : Index} {t : Tree} {len val : Nat} (h : Coded nodes j t len val) :
    Coded (nodes.set i.toNat n) j t len val :=
  h.congr fun _ _ hu _ => getElem?_set_of_holds hi n hu

theorem Waiting.set {fs : List Frame} {c : Nat} (h : Waiting nodes fs c) (hfs : ∀ g ∈ fs, g.node ≠ i) :
    Waiting (nodes.set i.toNat n) fs c :=
  h.congr (fun _ _ hu => getElem?_set_of_holds hi n hu) fun g hg =>
    List.getElem?_set_ne fun e => hfs g hg (BitVec.eq_of_toNat_eq e.symm)

end Write

/-! An allocation -/

theorem Coded.append {nodes : List Node} {j : Index} {t : Tree} {len val : Nat} (h : Coded nodes j t len val)
    (more : List Node) : Coded (nodes ++ more) j t len val :=
  h.congr fun _ _ hu _ => List.getElem?_append_left hu.lt_length

theorem Waiting.append {nodes : List Node} {fs : List Frame} {c : Nat} (h : Waiting nodes fs c) (more : List Node) :
    Waiting (nodes ++ more) fs c :=
  h.congr (fun _ _ hu => List.getElem?_append_left hu.lt_length) fun g hg => List.getElem?_append_left (h.lt_length g hg)

/-! ### Tokens -/

/-- Where a parse stands after a sub-tree has been returned: the whole tree is there, or the activations wait on. -/
def Parsed (t : State) (c : Nat) : Prop :=
  (t.pend = [] ∧ ∃ a, Coded t.nodes t.root a 0 0 ∧ a.size = c) ∨ (t.pend ≠ [] ∧ Waiting t.nodes t.pend c)

theorem tcReturn_left {s : State} {i j : Index} {n : Node} {len val : Nat} {fs : List Frame} (hn : s.node? i = some n) :
    tcReturn (⟨i, len, val, .left⟩ :: fs) j s =
      .go () { s.setNode i (n.withChild .left j) with pend := ⟨i, len, val, .right⟩ :: fs } := by
  simp [tcReturn, readNode_eq hn]

theorem tcReturn_right {s : State} {i j : Index} {n : Node} {len val : Nat} {fs : List Frame} (hn : s.node? i = some n) :
    tcReturn (⟨i, len, val, .right⟩ :: fs) j s = tcReturn fs i (s.setNode i (n.withChild .right j)) := by
  simp [tcReturn, readNode_eq hn]

/-- What the return of a coded sub-tree to the waiting activations leads to. -/
theorem tcReturn_parsed {fs : List Frame} {c : Nat} {j : Index} {a : Tree} {s t : State} (hw : Waiting s.nodes fs c)
    (hj : Coded s.nodes j a (nextPlace fs).1 (nextPlace fs).2) (h : tcReturn fs j s = .go () t) : Parsed t (c + a.size) := by
  induction fs generalizing c j a s with
  | nil =>
    cases hw
    cases h
    exact .inl ⟨rfl, a, hj, (Nat.zero_add _).symm⟩
  | cons f fs ih =>
    cases hw with
    | @left _ i len val freq c hp hn hi hw =>
      have hno := not_holds_of_right_none hn rfl
      rw [tcReturn_left hn] at h
      obtain ⟨-, rfl⟩ := Run.go.inj h
      exact .inr ⟨List.cons_ne_nil _ _, .right hp (State.setNode_node?_same s i _ _ hn) (hj.set hno _) hi (hw.set hno _ hi)⟩
    | @right _ i l b len val freq c hp hn hb hi hw =>
      have hno := not_holds_of_right_none hn rfl
      rw [tcReturn_right hn] at h
      have key := ih (a := .node b a) (hw.set hno _ hi) (by
        rw [hp]
        exact .node (State.setNode_node?_same s i _ _ hn) (hb.set hno _) (hj.set hno _)) h
      rwa [show c + 1 + b.size + a.size = c + (Tree.node b a).size by simp only [Tree.size]; omega]

/-- The entry a parse allocates has the code of the place parsed next (42_tree_codec.md R153). -/
theorem node?_alloc_imported {s : State} (kind : NodeKind) (h : s.nodeN < nodeCap) :
    (s.nodes ++ [newImported kind s])[s.nextIndex.toNat]? = some (newImported kind s) :=
  State.alloc_node?_next s _ (h.trans (by decide))

theorem nextIndex_toNat {s : State} (h : s.nodeN < nodeCap) : s.nextIndex.toNat = s.nodes.length := by
  simp only [State.nextIndex, State.nodeN, nodeCap, BitVec.toNat_ofNat] at *
  omega

theorem tokenLeaf_parsed {symbol : Symbol} {s t : State} (hw : Waiting s.nodes s.pend s.nodeN) (hc : s.nodeN ≤ nodeCap)
    (h : tokenLeaf symbol s = .go () t) : Parsed t (s.nodeN + 1) := by
  unfold tokenLeaf at h
  split at h
  · cases h
  next hne =>
    exact tcReturn_parsed (a := .leaf symbol) (hw.append _) (.leaf (node?_alloc_imported _ (Nat.lt_of_le_of_ne hc hne))) h

theorem runToken_parsed {i : Instr} {s t : State} (hw : Waiting s.nodes s.pend s.nodeN) (hc : s.nodeN ≤ nodeCap)
    (h : runToken i s = .go () t) : Parsed t (s.nodeN + 1) := by
  cases i with
  | tokN =>
    simp only [runToken, tokenN] at h
    split at h
    · cases h
    next hne =>
      have hlt := Nat.lt_of_le_of_ne hc hne
      obtain ⟨-, rfl⟩ := Run.go.inj h
      refine .inr ⟨List.cons_ne_nil _ _, .left rfl (node?_alloc_imported _ hlt) (fun g hg e => ?_) (hw.append _)⟩
      have := hw.lt_length g hg
      rw [e, nextIndex_toNat hlt] at this
      exact absurd this (Nat.lt_irrefl _)
  | tokC symbol => exact tokenLeaf_parsed hw hc h
  | tokZ =>
    simp only [runToken, tokenZ] at h
    split at h
    · cases h
    · exact tokenLeaf_parsed (s := { s with sentCount := s.sentCount + 1#9 }) hw hc h
  | encBuild | encExport | encEncode | decBuild | decDecode | sessionEnd => cases h

/-- A token that goes on found room in the arena (42_tree_codec.md R153, R157). -/
theorem runToken_nodeN_ne {i : Instr} {s t : State} (h : runToken i s = .go () t) : s.nodeN ≠ nodeCap := by
  intro he
  cases i with
  | tokN => simp [runToken, tokenN, he] at h
  | tokC symbol => simp [runToken, tokenC, tokenLeaf, he] at h
  | tokZ => simp [runToken, tokenZ, he] at h
  | encBuild | encExport | encEncode | decBuild | decDecode | sessionEnd => cases h

/-! ### The whole parse -/

/-- The whole arena is one coded tree at ROOT, which fits it. -/
def OneCodedTree (t : State) : Prop :=
  ∃ a, Coded t.nodes t.root a 0 0 ∧ a.size = t.nodeN ∧ t.nodeN ≤ nodeCap

theorem importLoop_oneCodedTree {fuel : Nat} {s t : State} (hw : Waiting s.nodes s.pend s.nodeN) (hc : s.nodeN ≤ nodeCap)
    (h : importLoop fuel s = .go () t) : OneCodedTree t := by
  induction fuel generalizing s with
  | zero => cases h
  | succ fuel ih =>
    unfold importLoop at h
    split at h
    next => cases h
    next i u hu =>
      have hnodes : u.nodes = s.nodes := by rw [← fetchToken_nodes s, hu]
      have hpend : u.pend = s.pend := by rw [← fetchToken_pend s, hu]
      have hcount : u.nodeN = s.nodeN := congrArg List.length hnodes
      rw [← hnodes, ← hpend, ← hcount] at hw
      rw [← hcount] at hc
      obtain ⟨_, v, hv, h⟩ := Run.bind_eq_go h
      have hlen : v.nodeN = u.nodeN + 1 := (runToken_frame hv).2
      have hle : v.nodeN ≤ nodeCap := hlen ▸ Nat.lt_of_le_of_ne hc (runToken_nodeN_ne hv)
      have key := hlen ▸ runToken_parsed hw hc hv
      obtain ⟨hnil, a, ha, hsize⟩ | ⟨hne, hwait⟩ := key
      · simp only [hnil, List.isEmpty_nil, if_true] at h
        cases h
        exact ⟨a, ha, hsize, hle⟩
      · simp only [List.isEmpty_iff, hne, if_false] at h
        exact ih hwait hle h

theorem tcImport_oneCodedTree {s t : State} (hs : s.nodes = []) (h : tcImport s = .go () t) : OneCodedTree t := by
  refine importLoop_oneCodedTree (s := { s with pend := [] }) ?_ ?_ h
  · show Waiting s.nodes [] s.nodes.length
    rw [hs]
    exact .nil
  · show s.nodes.length ≤ nodeCap
    rw [hs]
    exact Nat.zero_le _

/-- TC.CHECK changes nothing where it goes on. -/
theorem tcCheck_eq_go {s t : State} (h : tcCheck s = .go () t) : t = s := by
  unfold tcCheck at h
  split at h
  · obtain ⟨n, -, h⟩ := readNode_bind_eq_go h
    split at h
    · cases h
    · cases h; rfl
  · cases h

theorem decBuildRun_oneCodedTree {s t : State} (hs : s.nodes = []) (h : decBuildRun s = .go () t) : OneCodedTree t := by
  obtain ⟨_, u, hu, h⟩ := Run.bind_eq_go h
  obtain ⟨_, v, hv, h⟩ := Run.bind_eq_go h
  cases tcCheck_eq_go hv
  cases h
  have key := tcImport_oneCodedTree (s := decStart s) hs hu
  exact key

end Sys2Proof.Machine
end

section
/-! SUPPORT. The tree ENC_BUILD builds: Q names a forest whose leaves are the symbols that occur, TB.MERGE keeps the leaves
(40_tree_builder.md R124 to R127), and CA.ASSIGN codes the one tree that is left (41_code_assigner.md R141). -/

namespace Sys2Proof.Machine

/-! ### The forest of Q -/

/-- Each index of `q` holds a tree, and their leaves together are the symbols. -/
def Forest (nodes : List Node) (q : List Index) (symbols : List Symbol) : Prop :=
  ∃ f : Index → Tree, (∀ i ∈ q, Holds nodes i (f i)) ∧ (q.flatMap fun i => (f i).symbols).Perm symbols

theorem Forest.perm {nodes : List Node} {q : List Index} {k l : List Symbol} (h : Forest nodes q k) (hp : k.Perm l) :
    Forest nodes q l := by
  obtain ⟨f, hf, hk⟩ := h
  exact ⟨f, hf, hk.trans hp⟩

theorem Forest.singleton {nodes : List Node} {i : Index} {l : List Symbol} (h : Forest nodes [i] l) :
    ∃ t, Holds nodes i t ∧ t.symbols.Perm l := by
  obtain ⟨f, hf, hl⟩ := h
  exact ⟨f i, hf i (List.mem_singleton_self i), by simpa using hl⟩

/-- An index taken out of Q takes its tree's leaves with it. -/
theorem Forest.erase {nodes : List Node} {q : List Index} {i : Index} {l : List Symbol} (h : Forest nodes q l) (hi : i ∈ q) :
    ∃ t k, Holds nodes i t ∧ Forest nodes (q.erase i) k ∧ (t.symbols ++ k).Perm l := by
  obtain ⟨f, hf, hl⟩ := h
  refine ⟨f i, _, hf i hi, ⟨f, fun j hj => hf j (List.mem_of_mem_erase hj), .rfl⟩, ?_⟩
  exact ((List.perm_cons_erase hi).flatMap_right _).symm.trans hl

/-- A new entry that holds a tree joins Q. -/
theorem Forest.add {nodes : List Node} {q : List Index} {n : Node} {t : Tree} {l : List Symbol} (h : Forest nodes q l)
    (hlt : nodes.length < 1024) (ht : Holds (nodes ++ [n]) (BitVec.ofNat 10 nodes.length) t) :
    Forest (nodes ++ [n]) (q ++ [BitVec.ofNat 10 nodes.length]) (t.symbols ++ l) := by
  obtain ⟨f, hf, hl⟩ := h
  have hne : ∀ i ∈ q, i ≠ BitVec.ofNat 10 nodes.length := by
    rintro i hi rfl
    have := (hf _ hi).lt_length
    rw [BitVec.toNat_ofNat] at this
    omega
  have hold : ∀ i ∈ q, Function.update f (BitVec.ofNat 10 nodes.length) t i = f i :=
    fun i hi => Function.update_of_ne (hne i hi) _ _
  refine ⟨Function.update f (BitVec.ofNat 10 nodes.length) t, fun i hi => ?_, ?_⟩
  · obtain hi | hi := List.mem_append.mp hi
    · rw [hold i hi]
      exact (hf i hi).append _
    · rw [List.mem_singleton.mp hi, Function.update_self]
      exact ht
  · rw [List.flatMap_append, List.flatMap_singleton, Function.update_self,
      List.flatMap_congr fun i hi => congrArg Tree.symbols (hold i hi)]
    exact List.perm_append_comm.trans (hl.append_left _)

/-! ### TB.INIT -/

/-- The symbols of positive frequency among some, as leaves carry them (40_tree_builder.md R124). -/
def State.usedAmong (s : State) (l : List (Fin 257)) : List Symbol :=
  (l.filter fun symbol => decide (0 < s.freqOf symbol)).map fun symbol => BitVec.ofNat 9 symbol.val

theorem State.usedAmong_nodup (s : State) {l : List (Fin 257)} (hl : l.Nodup) : (s.usedAmong l).Nodup := by
  refine (hl.filter _).map fun a b e => Fin.ext ?_
  have ha := a.isLt
  have hb := b.isLt
  have := congrArg BitVec.toNat e
  simp only [BitVec.toNat_ofNat] at this
  omega

theorem tbLeaf_freqOf (symbol c : Fin 257) (s : State) : (tbLeaf symbol s).freqOf c = s.freqOf c := by
  rw [tbLeaf_frame symbol s]; rfl

/-- Everything a turn of TB.INIT does to the arena and to Q (40_tree_builder.md R124). -/
theorem tbLeaf_cases (symbol : Fin 257) (s : State) :
    (0 < s.freqOf symbol ∧ (tbLeaf symbol s).nodes = s.nodes ++ [newLeaf symbol (s.freqOf symbol)] ∧
      (tbLeaf symbol s).q = s.q ++ [s.nextIndex]) ∨
    (¬ 0 < s.freqOf symbol ∧ (tbLeaf symbol s).nodes = s.nodes ∧ (tbLeaf symbol s).q = s.q) := by
  unfold tbLeaf
  by_cases h : 0 < s.freqOf symbol
  · exact .inl ⟨h, by rw [if_pos h]; rfl, by rw [if_pos h]⟩
  · exact .inr ⟨h, by rw [if_neg h], by rw [if_neg h]⟩

/-- What the turns of TB.INIT for some symbols leave: their leaves joined to the forest, one entry of Q for each. -/
theorem tbLeaf_foldl_forest (l : List (Fin 257)) {s : State} {k : List Symbol} (hs : Forest s.nodes s.q k)
    (hq : s.q.length = s.nodeN) (hl : s.nodeN + l.length ≤ 257) :
    Forest (l.foldl (fun t c => tbLeaf c t) s).nodes (l.foldl (fun t c => tbLeaf c t) s).q (s.usedAmong l ++ k) ∧
    (l.foldl (fun t c => tbLeaf c t) s).q.length = (l.foldl (fun t c => tbLeaf c t) s).nodeN ∧
    (l.foldl (fun t c => tbLeaf c t) s).nodeN ≤ 257 := by
  induction l generalizing s k with
  | nil => exact ⟨hs, hq, hl⟩
  | cons c l ih =>
    have hfreq : (tbLeaf c s).usedAmong l = s.usedAmong l := by simp only [State.usedAmong, tbLeaf_freqOf]
    rw [List.length_cons] at hl
    obtain ⟨hpos, hnodes, hqueue⟩ | ⟨hzero, hnodes, hqueue⟩ := tbLeaf_cases c s
    · have hN : (tbLeaf c s).nodeN = s.nodeN + 1 := by simp [State.nodeN, hnodes]
      have hlt : s.nodeN < 1024 := by omega
      have hleaf : Holds (s.nodes ++ [newLeaf c (s.freqOf c)]) s.nextIndex (.leaf (BitVec.ofNat 9 c.val)) :=
        .leaf (s.alloc_node?_next _ hlt) rfl
      obtain ⟨hf, hq', hn'⟩ := ih (s := tbLeaf c s) (by rw [hnodes, hqueue]; exact hs.add hlt hleaf)
        (by rw [hqueue, List.length_append, hq, hN]; rfl) (by omega)
      refine ⟨hf.perm ?_, hq', hn'⟩
      rw [hfreq, show s.usedAmong (c :: l) = BitVec.ofNat 9 c.val :: s.usedAmong l by simp [State.usedAmong, hpos]]
      exact List.perm_middle
    · obtain ⟨hf, hq', hn'⟩ := ih (s := tbLeaf c s) (k := k) (by rw [hnodes, hqueue]; exact hs)
        (by rw [hqueue, hq, State.nodeN, State.nodeN, hnodes]) (by rw [State.nodeN, hnodes]; unfold State.nodeN at hl; omega)
      refine ⟨?_, hq', hn'⟩
      rwa [hfreq, ← show s.usedAmong (c :: l) = s.usedAmong l by simp [State.usedAmong, hzero]] at hf

theorem tbInit_forest {s : State} (hs : s.nodes = []) :
    Forest (tbInit s).nodes (tbInit s).q (s.usedAmong (List.finRange 257)) ∧ (tbInit s).q.length = (tbInit s).nodeN ∧
    (tbInit s).nodeN ≤ 257 := by
  have hempty : Forest s.nodes [] [] := ⟨fun _ => .leaf 0, nofun, .rfl⟩
  rw [← List.append_nil (s.usedAmong _)]
  exact tbLeaf_foldl_forest (List.finRange 257) (s := { s with q := [] }) hempty (by simp [State.nodeN, hs])
    (by simp [State.nodeN, hs])

/-! ### TB.MERGE -/

theorem State.least_mem (s : State) (i : Index) (others : List Index) : s.least i others ∈ i :: others := by
  unfold State.least
  induction others generalizing i with
  | nil => exact List.mem_singleton_self i
  | cons j others ih =>
    rw [List.foldl_cons]
    split
    · exact List.mem_cons_of_mem _ (ih j)
    · exact List.mem_cons.mpr ((List.mem_cons.mp (ih i)).imp_right (List.mem_cons_of_mem _))

/-- `remove_min` takes a member out of Q. -/
theorem removeMin_eq_go {s t : State} {i : Index} (h : removeMin s = .go i t) :
    i ∈ s.q ∧ t = { s with q := s.q.erase i } := by
  obtain ⟨-, e⟩ | ⟨j, others, hq, e⟩ := removeMin_cases s <;> rw [e] at h
  · cases h
  · cases h
    exact ⟨hq ▸ s.least_mem j others, rfl⟩

/-- What TB.MERGE does to the arena and to Q (40_tree_builder.md R126). -/
theorem tbMerge_eq_go {s t : State} (h : tbMerge s = .go () t) :
    ∃ a b freq, a ∈ s.q ∧ b ∈ s.q.erase a ∧
      t.nodes = s.nodes ++ [⟨.internal (some a) (some b), freq, 0#9, 0#256⟩] ∧
      t.q = (s.q.erase a).erase b ++ [s.nextIndex] := by
  unfold tbMerge at h
  obtain ⟨a, s1, h1, h⟩ := Run.bind_eq_go h
  obtain ⟨b, s2, h2, h⟩ := Run.bind_eq_go h
  obtain ⟨na, -, h⟩ := readNode_bind_eq_go h
  obtain ⟨nb, -, h⟩ := readNode_bind_eq_go h
  obtain ⟨ha, rfl⟩ := removeMin_eq_go h1
  obtain ⟨hb, rfl⟩ := removeMin_eq_go h2
  cases h
  exact ⟨a, b, _, ha, hb, rfl, rfl⟩

/-- TB.MERGE keeps the leaves of the forest, and what it adds to the arena it takes from Q. -/
theorem tbMerge_forest {s t : State} {l : List Symbol} (hs : Forest s.nodes s.q l) (hlt : s.nodeN < 1024)
    (h : tbMerge s = .go () t) : Forest t.nodes t.q l ∧ t.nodeN = s.nodeN + 1 ∧ t.q.length + 1 = s.q.length := by
  obtain ⟨a, b, freq, ha, hb, hnodes, hqueue⟩ := tbMerge_eq_go h
  obtain ⟨x, k, hx, hk, hxk⟩ := hs.erase ha
  obtain ⟨y, m, hy, hm, hym⟩ := hk.erase hb
  have hnew : Holds (s.nodes ++ [⟨.internal (some a) (some b), freq, 0#9, 0#256⟩]) s.nextIndex (.node x y) :=
    .node (s.alloc_node?_next _ hlt) rfl (hx.append _) (hy.append _)
  refine ⟨?_, by simp [State.nodeN, hnodes], ?_⟩
  · rw [hnodes, hqueue]
    refine (hm.add hlt hnew).perm ?_
    rw [Tree.symbols, List.append_assoc]
    exact (hym.append_left _).trans hxk
  · have := List.length_pos_of_mem ha
    have := List.length_pos_of_mem hb
    rw [List.length_erase_of_mem ha] at this
    rw [hqueue, List.length_append, List.length_erase_of_mem hb, List.length_erase_of_mem ha, List.length_singleton]
    omega

/-- The merges keep the leaves of the forest; 513 entries are the most they reach (40_tree_builder.md R127). -/
theorem tbMergeAll_forest {fuel : Nat} {s t : State} {l : List Symbol} (hs : Forest s.nodes s.q l)
    (hc : s.nodeN + s.q.length ≤ 514) (h : tbMergeAll fuel s = .go () t) : Forest t.nodes t.q l := by
  induction fuel generalizing s with
  | zero => cases h; exact hs
  | succ fuel ih =>
    unfold tbMergeAll at h
    split at h
    · obtain ⟨_, u, hu, h⟩ := Run.bind_eq_go h
      obtain ⟨hf, hn, hq⟩ := tbMerge_forest hs (by omega) hu
      exact ih hf (by omega) h
    · cases h; exact hs

/-- TB.BUILD leaves one tree, at ROOT, whose leaves are the symbols that occur. -/
theorem tbBuild_holds {s t : State} (hs : s.nodes = []) (h : tbBuild s = .go () t) :
    ∃ a, Holds t.nodes t.root a ∧ a.symbols.Perm (s.usedAmong (List.finRange 257)) := by
  unfold tbBuild at h
  obtain ⟨_, u, hu, h⟩ := Run.bind_eq_go h
  obtain ⟨hf, hq, hn⟩ := tbInit_forest hs
  have hfu := tbMergeAll_forest hf (by omega) hu
  split at h
  next r hr =>
    cases h
    rw [hr] at hfu
    exact hfu.singleton
  next => cases h

/-! ### CA.ASSIGN -/

/-- The node with the code of a place. -/
def Node.placed (n : Node) (len val : Nat) : Node := { n with codeLen := BitVec.ofNat 9 len, codeVal := BitVec.ofNat 256 val }

theorem caVisit_leaf {fuel : Nat} {i : Index} {len val : Nat} {s : State} {n : Node} {symbol : Symbol}
    (hn : s.node? i = some n) (hk : n.kind = .leaf symbol) :
    caVisit (fuel + 1) i len val s = .go () (caLeaf symbol len n.freq (s.setNode i (n.placed len val))) := by
  simp [caVisit, readNode_eq hn, hk, Node.placed]

theorem caVisit_node {fuel : Nat} {i l r : Index} {len val : Nat} {s : State} {n : Node} (hn : s.node? i = some n)
    (hk : n.kind = .internal (some l) (some r)) :
    caVisit (fuel + 1) i len val s =
      (caVisit fuel l (len + 1) (2 * val) { s.setNode i (n.placed len val) with hdrBytes := s.hdrBytes + 1#10 }).bind
        fun _ u => caVisit fuel r (len + 1) (2 * val + 1) u := by
  simp [caVisit, readNode_eq hn, hk, Node.placed]

/-- A write that keeps the kind of the entry keeps every tree. -/
theorem Holds.set {nodes : List Node} {i j : Index} {n m : Node} {t : Tree} (h : Holds nodes j t)
    (hn : nodes[i.toNat]? = some n) (hk : m.kind = n.kind) : Holds (nodes.set i.toNat m) j t := by
  refine h.of_kinds fun k x hx => ?_
  by_cases e : i.toNat = k
  · subst e
    cases hn.symm.trans hx
    exact ⟨m, by simp [(List.getElem?_eq_some_iff.mp hn).1], hk⟩
  · exact ⟨x, by rw [List.getElem?_set_ne e, hx], rfl⟩

/-- CA.ASSIGN keeps every tree. -/
theorem Holds.of_caVisit {fuel : Nat} {i j : Index} {len val : Nat} {s u : State} {t : Tree} (h : Holds s.nodes j t)
    (hv : caVisit fuel i len val s = .go () u) : Holds u.nodes j t := by
  refine h.of_kinds fun k x hx => ?_
  obtain ⟨-, hmap⟩ := caVisit_frame hv
  have e : (u.nodes[k]?).map (fun n => (n.kind, n.freq)) = some (x.kind, x.freq) := by
    rw [← List.getElem?_map, hmap, List.getElem?_map, hx]
    rfl
  obtain ⟨y, hy, hxy⟩ := Option.map_eq_some_iff.mp e
  exact ⟨y, hy, congrArg Prod.fst hxy⟩

/-- A tree with a symbol outside another stands at another entry. -/
theorem Holds.ne_of_not_subset {nodes : List Node} {i k : Index} {t w : Tree} (ht : Holds nodes i t) (hw : Holds nodes k w)
    (hsub : ¬ w.symbols ⊆ t.symbols) : i.toNat ≠ k.toNat := by
  intro e
  obtain rfl : i = k := BitVec.eq_of_toNat_eq e
  exact hsub (hw.unique ht ▸ List.Subset.refl _)

/-- A visit codes a tree of different symbols, no deeper than its fuel, and leaves alone every entry of a tree with a symbol
outside it. -/
theorem caVisit_coded {t : Tree} {fuel : Nat} {i : Index} {len val : Nat} {s u : State} (ht : Holds s.nodes i t)
    (hd : t.symbols.Nodup) (h : caVisit fuel i len val s = .go () u) :
    t.height < fuel ∧ Coded u.nodes i t len val ∧
    ∀ k w, Holds s.nodes k w → ¬ w.symbols ⊆ t.symbols → u.nodes[k.toNat]? = s.nodes[k.toNat]? := by
  induction t generalizing fuel i len val s u with
  | leaf symbol =>
    cases fuel with
    | zero => cases h
    | succ fuel =>
      have hi := ht
      cases ht with
      | @leaf _ n _ hn hk =>
        rw [caVisit_leaf hn hk] at h
        obtain ⟨-, rfl⟩ := Run.go.inj h
        obtain ⟨kind, freq, l, v⟩ := n
        cases hk
        exact ⟨Nat.succ_pos _, .leaf (s.setNode_node?_same i _ _ hn),
          fun k w hw hsub => List.getElem?_set_ne (hi.ne_of_not_subset hw hsub)⟩
  | node a b iha ihb =>
    cases fuel with
    | zero => cases h
    | succ fuel =>
      have hi := ht
      cases ht with
      | @node _ n l r _ _ hn hk ha hb =>
        rw [caVisit_node hn hk] at h
        obtain ⟨_, v, hv, h⟩ := Run.bind_eq_go h
        obtain ⟨hda, hdb, hdab⟩ := List.nodup_append'.mp hd
        have hset : ∀ {k w}, Holds s.nodes k w → Holds (s.nodes.set i.toNat (n.placed len val)) k w := fun hw => hw.set hn rfl
        have hvis : ∀ {k w}, Holds s.nodes k w → Holds v.nodes k w := fun hw => (hset hw).of_caVisit hv
        obtain ⟨hfa, hca, hframea⟩ := iha (hset ha) hda hv
        obtain ⟨hfb, hcb, hframeb⟩ := ihb (hvis hb) hdb h
        have hframe : ∀ k w, Holds s.nodes k w → ¬ w.symbols ⊆ a.symbols → ¬ w.symbols ⊆ b.symbols →
            u.nodes[k.toNat]? = (s.nodes.set i.toNat (n.placed len val))[k.toNat]? :=
          fun k w hw hwa hwb => (hframeb k w (hvis hw) hwb).trans (hframea k w (hset hw) hwa)
        have hia : ¬ (Tree.node a b).symbols ⊆ a.symbols := fun hs =>
          Tree.not_subset_of_disjoint hdab.symm (List.Subset.refl _) (List.Subset.trans (List.subset_append_right _ _) hs)
        have hib : ¬ (Tree.node a b).symbols ⊆ b.symbols := fun hs =>
          Tree.not_subset_of_disjoint hdab (List.Subset.refl _) (List.Subset.trans (List.subset_append_left _ _) hs)
        have hself := (hframe i _ hi hia hib).trans (s.setNode_node?_same i _ _ hn)
        obtain ⟨kind, freq, _, _⟩ := n
        cases hk
        refine ⟨Nat.succ_lt_succ (Nat.max_lt.mpr ⟨hfa, hfb⟩), .node hself ?_ hcb, fun k w hw hsub => ?_⟩
        · exact hca.congr fun k w hw hs => hframeb k w hw (Tree.not_subset_of_disjoint hdab hs)
        · refine (hframe k w hw ?_ ?_).trans (List.getElem?_set_ne (hi.ne_of_not_subset hw hsub))
          · exact fun hs => hsub (List.Subset.trans hs (List.subset_append_left _ _))
          · exact fun hs => hsub (List.Subset.trans hs (List.subset_append_right _ _))

/-! ### ENC_BUILD -/

theorem caAssign_coded {s u : State} {t : Tree} (ht : Holds s.nodes s.root t) (hd : t.symbols.Nodup)
    (h : caAssign s = .go () u) : Coded u.nodes u.root t 0 0 ∧ t.height ≤ codeMax := by
  obtain ⟨hframe, -⟩ := caVisit_frame h
  obtain ⟨hh, hc, -⟩ := caVisit_coded (s := { s with hdrBytes := 0#10, payloadBits := 0 }) ht hd h
  have hroot : u.root = s.root := by rw [hframe]
  exact ⟨hroot ▸ hc, Nat.le_of_lt_succ hh⟩

/-- The gate changes no node (44_encoder_commands.md R191). -/
theorem encGate_eq_go {s t : State} (h : encGate s = .go () t) : t = s.retOk .treeBuilt := by
  unfold encGate at h
  split at h <;> cases h
  rfl

theorem encTree_coded {s t : State} (hs : s.nodes = []) (h : encTree s = .go () t) :
    ∃ a, Coded t.nodes t.root a 0 0 ∧ a.height ≤ codeMax := by
  unfold encTree at h
  split at h
  · cases h
  · obtain ⟨_, u, hu, h⟩ := Run.bind_eq_go h
    obtain ⟨_, v, hv, h⟩ := Run.bind_eq_go h
    cases encGate_eq_go h
    obtain ⟨a, ha, hperm⟩ := tbBuild_holds hs hu
    have hd : a.symbols.Nodup := hperm.nodup_iff.mpr (s.usedAmong_nodup (List.nodup_finRange 257))
    obtain ⟨hc, hheight⟩ := caAssign_coded ha hd hv
    exact ⟨a, hc, hheight⟩

theorem encBuildRun_coded {s t : State} (hs : s.nodes = []) (h : encBuildRun s = .go () t) :
    ∃ a, Coded t.nodes t.root a 0 0 ∧ a.height ≤ codeMax := by
  obtain ⟨_, u, hu, h⟩ := Run.bind_eq_go h
  exact encTree_coded (by rw [tally_frame hu]; exact hs) h

end Sys2Proof.Machine
end

section
/-! SUPPORT. Codes after a build (10_state.md R25). -/

namespace Sys2Proof.Machine

/-- A command that ends OK was admitted, and its run has gone on. -/
theorem admitted_eq_go {P : Prop} {ok : Bool} {s t : State} {run : State → Run Unit} {σ : Status} (hok : ok = true ↔ P)
    (hr : (run s).Ends σ) (h : admitted ok s run = .next t) (hl : t.status.last = .ok) : P ∧ run s = .go () t := by
  obtain ⟨ho, e⟩ | ⟨-, e⟩ := admitted_cases ok s run <;> rw [e] at h
  · refine ⟨hok.mp ho, ?_⟩
    obtain ⟨_, hgo⟩ | hraised := Run.outcome_eq_next h
    · exact hgo
    · rw [hraised] at hr
      obtain ⟨e, he, hs⟩ := hr.failed_of_raised
      rw [hs] at hl
      exact absurd hl (Result.ne_ok_of_fatal he)
  · cases h
    cases hl

/-- After a build that ends OK the arena holds a coded tree at ROOT, no deeper than CODE_MAX. -/
theorem build_coded {i : Instr} {s t : State} (hs : Inv s) (hi : i = .encBuild ∨ i = .decBuild) (h : exec i s = .next t)
    (hl : t.status.last = .ok) : ∃ a, Coded t.nodes t.root a 0 0 ∧ a.height ≤ codeMax := by
  have hempty (hp : s.status.phase = .idle) : s.nodes = [] := by
    obtain ⟨-, hnodes, -⟩ := hs.idle_clean hp
    exact hnodes
  obtain rfl | rfl := hi
  · obtain ⟨hp, hgo⟩ := admitted_eq_go decide_eq_true_iff (encBuildRun_ends s) h hl
    exact encBuildRun_coded (hempty hp) hgo
  · obtain ⟨hp, hgo⟩ := admitted_eq_go decide_eq_true_iff (decBuildRun_ends s) h hl
    obtain ⟨a, ha, hsize, hcap⟩ := decBuildRun_oneCodedTree (hempty hp) hgo
    exact ⟨a, ha, a.height_le_codeMax (hsize ▸ hcap)⟩

/-- Settles O36: after either build the tree at ROOT is coded by places, and a place is its path. -/
theorem codesArePaths : Obligations.CodesArePaths := by
  intro i s t hs hi h hl path j hj
  obtain ⟨a, ha, hheight⟩ := build_coded hs hi h hl
  exact ha.codes_are_paths hheight hj

end Sys2Proof.Machine
end

section
/-! SUPPORT. Payload words as bytes (20_memory.md R70): both orders arrange the same bytes, most significant first, so that
what is said of those bytes is said once for the two orders. -/

namespace Sys2Proof.Machine

/-! ### Most significant first -/

/-- The `n` low bytes of a word, most significant first. -/
def bigEndianBytes (n w : Nat) : List Byte := (List.range n).map fun k => BitVec.ofNat 8 (w >>> (8 * (n - 1 - k)))

/-- The word that bytes spell, most significant first. -/
def bigEndianWord (bytes : List Byte) : Nat := bytes.foldl (fun w b => w * 256 + b.toNat) 0

@[simp] theorem bigEndianBytes_length (n w : Nat) : (bigEndianBytes n w).length = n := by simp [bigEndianBytes]

theorem bigEndianBytes_getElem? {n k : Nat} (w : Nat) (hk : k < n) :
    (bigEndianBytes n w)[k]? = some (BitVec.ofNat 8 (w >>> (8 * (n - 1 - k)))) := by
  simp [bigEndianBytes, hk]

theorem bigEndianBytes_succ (n w : Nat) :
    bigEndianBytes (n + 1) w = bigEndianBytes n (w >>> 8) ++ [BitVec.ofNat 8 w] := by
  have hshift : ∀ k ∈ List.range n,
      BitVec.ofNat 8 (w >>> (8 * (n + 1 - 1 - k))) = BitVec.ofNat 8 (w >>> 8 >>> (8 * (n - 1 - k))) := by
    intro k hk
    have hlt := List.mem_range.mp hk
    rw [← Nat.shiftRight_add, show 8 * (n + 1 - 1 - k) = 8 + 8 * (n - 1 - k) by omega]
  rw [bigEndianBytes, List.range_succ, List.map_append, List.map_congr_left hshift]
  simp [bigEndianBytes]

theorem bigEndianBytes_one (w : Nat) : bigEndianBytes 1 w = [BitVec.ofNat 8 w] := bigEndianBytes_succ 0 w

theorem bigEndianWord_append_singleton (bytes : List Byte) (b : Byte) :
    bigEndianWord (bytes ++ [b]) = bigEndianWord bytes * 256 + b.toNat := by
  simp [bigEndianWord]

theorem bigEndianWord_lt (bytes : List Byte) : bigEndianWord bytes < 2 ^ (8 * bytes.length) := by
  induction bytes using List.reverseRecOn with
  | nil => exact Nat.one_pos
  | append_singleton bytes b ih =>
    have hb := b.isLt
    rw [bigEndianWord_append_singleton, List.length_append, List.length_singleton, Nat.mul_add, Nat.pow_add]
    omega

/-- Reading inverts writing. -/
theorem bigEndianWord_bigEndianBytes {n w : Nat} (hw : w < 2 ^ (8 * n)) : bigEndianWord (bigEndianBytes n w) = w := by
  induction n generalizing w with
  | zero => exact (Nat.lt_one_iff.mp hw).symm
  | succ n ih =>
    have hhigh : w >>> 8 < 2 ^ (8 * n) := by
      rw [Nat.mul_add, Nat.pow_add] at hw
      rw [Nat.shiftRight_eq_div_pow]
      omega
    rw [bigEndianBytes_succ, bigEndianWord_append_singleton, ih hhigh, Nat.shiftRight_eq_div_pow, BitVec.toNat_ofNat]
    omega

/-- Writing inverts reading. -/
theorem bigEndianBytes_bigEndianWord (bytes : List Byte) : bigEndianBytes bytes.length (bigEndianWord bytes) = bytes := by
  induction bytes using List.reverseRecOn with
  | nil => rfl
  | append_singleton bytes b ih =>
    have hb := b.isLt
    have hhigh : (bigEndianWord bytes * 256 + b.toNat) >>> 8 = bigEndianWord bytes := by
      rw [Nat.shiftRight_eq_div_pow]
      omega
    have hlow : BitVec.ofNat 8 (bigEndianWord bytes * 256 + b.toNat) = b := by
      apply BitVec.eq_of_toNat_eq
      rw [BitVec.toNat_ofNat]
      omega
    rw [bigEndianWord_append_singleton, List.length_append, List.length_singleton, bigEndianBytes_succ, hhigh, hlow, ih]

/-! ### Both orders -/

/-- The stream order of bytes given most significant first, and back: it is its own inverse. -/
def arrange (order : ByteOrder) (bytes : List Byte) : List Byte :=
  match order with
  | .BE => bytes
  | .LE => bytes.reverse

@[simp] theorem arrange_arrange (order : ByteOrder) (bytes : List Byte) : arrange order (arrange order bytes) = bytes := by
  cases order with
  | BE => rfl
  | LE => exact List.reverse_reverse bytes

@[simp] theorem arrange_length (order : ByteOrder) (bytes : List Byte) : (arrange order bytes).length = bytes.length := by
  cases order with
  | BE => rfl
  | LE => exact List.length_reverse

theorem arrange_singleton (order : ByteOrder) (b : Byte) : arrange order [b] = [b] := by cases order <;> rfl

theorem wordBytes_eq_arrange (c : Config) (w : Nat) : wordBytes c w = arrange c.order (bigEndianBytes c.WB w) := rfl

theorem bytesWord_eq_arrange (c : Config) (bytes : List Byte) : bytesWord c bytes = bigEndianWord (arrange c.order bytes) := by
  unfold bytesWord
  cases c.order with
  | BE => rfl
  | LE => rfl

theorem wordBytes_length (c : Config) (w : Nat) : (wordBytes c w).length = c.WB := by simp [wordBytes_eq_arrange]

theorem wordBytes_getElem?_BE {c : Config} (ho : c.order = .BE) (w : Nat) {k : Nat} (hk : k < c.WB) :
    (wordBytes c w)[k]? = some (BitVec.ofNat 8 (w >>> (c.W - 8 - 8 * k))) := by
  have hshift : c.W - 8 - 8 * k = 8 * (c.WB - 1 - k) := by
    have hW := c.W_eq
    omega
  rw [wordBytes_eq_arrange, ho, hshift]
  exact bigEndianBytes_getElem? w hk

theorem wordBytes_getElem?_LE {c : Config} (ho : c.order = .LE) (w : Nat) {k : Nat} (hk : k < c.WB) :
    (wordBytes c w)[k]? = some (BitVec.ofNat 8 (w >>> (8 * k))) := by
  have hmirror : c.WB - 1 - (c.WB - 1 - k) = k := by omega
  rw [wordBytes_eq_arrange, ho, arrange, List.getElem?_reverse (by simpa using hk), bigEndianBytes_length,
    bigEndianBytes_getElem? w (by omega), hmirror]

theorem bytesWord_wordBytes (c : Config) {w : Nat} (hw : w < 2 ^ c.W) : bytesWord c (wordBytes c w) = w := by
  rw [bytesWord_eq_arrange, wordBytes_eq_arrange, arrange_arrange]
  exact bigEndianWord_bigEndianBytes (c.W_eq ▸ hw)

theorem bytesWord_lt {c : Config} {bytes : List Byte} (hb : bytes.length = c.WB) : bytesWord c bytes < 2 ^ c.W := by
  have hlt := bigEndianWord_lt (arrange c.order bytes)
  rwa [arrange_length, hb, ← c.W_eq, ← bytesWord_eq_arrange] at hlt

theorem wordBytes_bytesWord {c : Config} {bytes : List Byte} (hb : bytes.length = c.WB) :
    wordBytes c (bytesWord c bytes) = bytes := by
  have hinv := bigEndianBytes_bigEndianWord (arrange c.order bytes)
  rw [arrange_length, hb] at hinv
  rw [wordBytes_eq_arrange, bytesWord_eq_arrange, hinv, arrange_arrange]

/-- A word of one byte has the same bytes under both orders. -/
theorem wordBytes_of_W_eq_eight {c : Config} (hW : c.W = 8) (w : Nat) : wordBytes c w = [BitVec.ofNat 8 w] := by
  have hWB : c.WB = 1 := by
    have hW' := c.W_eq
    omega
  rw [wordBytes_eq_arrange, hWB, bigEndianBytes_one, arrange_singleton]

end Sys2Proof.Machine
end

section
/-! SUPPORT. The parameters (00_scope.md R6) are kept by every run: said once for each micro-operation, then for every
instruction, for the host's turn and for a step. -/

namespace Sys2Proof.Machine

variable {β : Type} {c : Config} {s : State}

/-- A node access changes no state. -/
theorem readNode_bind_all {P : State → Prop} (i : Index) {k : Node → State → Run β} (hk : ∀ n, (k n s).All P) :
    ((readNode i s).bind k).All P := by
  obtain ⟨n, -, e⟩ | ⟨-, e⟩ := readNode_cases i s <;> rw [e]
  · exact hk n
  · trivial

/-! ### Encoder -/

theorem stCount_cfg (b : Byte) (hs : s.cfg = c) : (stCount b s).All (·.cfg = c) := by
  obtain ⟨-, e⟩ | ⟨-, e⟩ := stCount_cases b s <;> rw [e] <;> exact hs

theorem tally_cfg (n : Nat) (hs : s.cfg = c) : (tally n s).All (·.cfg = c) := by
  induction n generalizing s with
  | zero => exact hs
  | succ n ih =>
    unfold tally
    obtain ⟨-, e⟩ | ⟨b, rest, -, -, e⟩ := s.inRead_cases <;> rw [e]
    · exact hs
    · exact .bind (stCount_cfg b hs) fun _ _ hu => ih hu

theorem removeMin_cfg (hs : s.cfg = c) : (removeMin s).All (·.cfg = c) := by
  obtain ⟨-, e⟩ | ⟨i, others, -, e⟩ := removeMin_cases s <;> rw [e]
  · trivial
  · exact hs

theorem tbMerge_cfg (hs : s.cfg = c) : (tbMerge s).All (·.cfg = c) :=
  .bind (removeMin_cfg hs) fun a _ h1 => .bind (removeMin_cfg h1) fun b _ h2 =>
  readNode_bind_all a fun _ => readNode_bind_all b fun _ => h2

theorem tbMergeAll_cfg (n : Nat) (hs : s.cfg = c) : (tbMergeAll n s).All (·.cfg = c) := by
  induction n generalizing s with
  | zero => exact hs
  | succ n ih =>
    unfold tbMergeAll
    split
    · exact .bind (tbMerge_cfg hs) fun _ _ hu => ih hu
    · exact hs

theorem tbInit_cfg (s : State) : (tbInit s).cfg = s.cfg := by rw [tbInit_frame s]

/-- The run is named by an equation, here and where this is used: a term elaborated against a goal about `tbBuild s` itself
has Lean evaluate TB.INIT's loop over the 257 symbols. -/
theorem tbBuild_cfg {r : Run Unit} (hr : tbBuild s = r) (hs : s.cfg = c) : r.All (·.cfg = c) := by
  have hinit := (tbInit_cfg s).trans hs
  rw [← hr]
  unfold tbBuild
  generalize tbInit s = u at hinit ⊢
  refine .bind (tbMergeAll_cfg _ hinit) fun _ v hv => ?_
  split
  · exact hv
  · trivial

theorem caVisit_cfg (fuel : Nat) (i : Index) (len val : Nat) (hs : s.cfg = c) :
    (caVisit fuel i len val s).All (·.cfg = c) := by
  induction fuel generalizing i len val s with
  | zero => trivial
  | succ fuel ih =>
    refine readNode_bind_all i fun n => ?_
    split
    · exact hs
    · exact .bind (ih _ _ _ hs) fun _ _ hu => ih _ _ _ hu
    · trivial

theorem caAssign_cfg (hs : s.cfg = c) : (caAssign s).All (·.cfg = c) := caVisit_cfg (codeMax + 1) s.root 0 0 hs

theorem encGate_cfg (hs : s.cfg = c) : (encGate s).All (·.cfg = c) := by
  unfold encGate
  split <;> exact hs

theorem encTree_cfg (hs : s.cfg = c) : (encTree s).All (·.cfg = c) := by
  unfold encTree
  split
  · exact hs
  · generalize hr : tbBuild s = r
    exact .bind (tbBuild_cfg hr hs) fun _ _ hu => .bind (caAssign_cfg hu) fun _ _ hv => encGate_cfg hv

theorem encBuildRun_cfg (hs : s.cfg = c) : (encBuildRun s).All (·.cfg = c) :=
  .bind (tally_cfg _ hs) fun _ _ hu => encTree_cfg hu

theorem tcEmit_cfg (fuel : Nat) (i : Index) (hs : s.cfg = c) : (tcEmit fuel i s).All (·.cfg = c) := by
  induction fuel generalizing i s with
  | zero => trivial
  | succ fuel ih =>
    refine readNode_bind_all i fun n => ?_
    split
    · split <;> exact hs
    · exact .bind (ih _ hs) fun _ _ hu => ih _ hu
    · trivial

theorem encExportRun_cfg (hs : s.cfg = c) : (encExportRun s).All (·.cfg = c) :=
  .bind (tcEmit_cfg (codeMax + 1) s.root hs) fun _ _ hu => hu

theorem bpPush_cfg (n : Nat) (val : BitVec 256) (s : State) : (bpPush n val s).cfg = s.cfg := by
  obtain ⟨a, k, bytes, e⟩ := bpPush_frame n val s
  rw [e]; rfl

theorem bpFlush_cfg (s : State) : (bpFlush s).cfg = s.cfg := by
  obtain ⟨-, e⟩ | ⟨-, e⟩ := bpFlush_cases s <;> rw [e]; rfl

theorem pushCode_cfg (i : Index) (hs : s.cfg = c) : (pushCode i s).All (·.cfg = c) :=
  readNode_bind_all i fun _ => (bpPush_cfg _ _ s).trans hs

theorem encSymbol_cfg (b : Byte) (hs : s.cfg = c) : (encSymbol b s).All (·.cfg = c) := by
  unfold encSymbol
  split
  · exact hs
  · exact pushCode_cfg _ hs

theorem packLoop_cfg (n : Nat) (hs : s.cfg = c) : (packLoop n s).All (·.cfg = c) := by
  induction n generalizing s with
  | zero => exact hs
  | succ n ih =>
    unfold packLoop
    obtain ⟨-, e⟩ | ⟨b, rest, -, -, e⟩ := s.inRead_cases <;> rw [e]
    · exact hs
    · exact .bind (encSymbol_cfg b hs) fun _ _ hu => ih hu

theorem pushSentinel_cfg (hs : s.cfg = c) : (pushSentinel s).All (·.cfg = c) := by
  unfold pushSentinel
  split
  · trivial
  · exact pushCode_cfg _ hs

theorem encEncodeRun_cfg (hs : s.cfg = c) : (encEncodeRun s).All (·.cfg = c) :=
  .bind (packLoop_cfg _ hs) fun _ _ h1 => .bind (pushSentinel_cfg h1) fun _ u h2 => (bpFlush_cfg u).trans h2

/-! ### Decoder -/

theorem tcReturn_cfg (fs : List Frame) (j : Index) (hs : s.cfg = c) : (tcReturn fs j s).All (·.cfg = c) := by
  induction fs generalizing j s with
  | nil => exact hs
  | cons f fs ih =>
    refine readNode_bind_all f.node fun n => ?_
    dsimp only
    split
    · exact hs
    · exact ih f.node hs

theorem tokenLeaf_cfg (symbol : Symbol) (hs : s.cfg = c) : (tokenLeaf symbol s).All (·.cfg = c) := by
  unfold tokenLeaf
  split
  · exact hs
  · exact tcReturn_cfg _ _ hs

theorem tokenN_cfg (hs : s.cfg = c) : (tokenN s).All (·.cfg = c) := by
  unfold tokenN
  split <;> exact hs

theorem tokenZ_cfg (hs : s.cfg = c) : (tokenZ s).All (·.cfg = c) := by
  unfold tokenZ
  split
  · exact hs
  · exact tokenLeaf_cfg sentinel hs

theorem runToken_cfg (i : Instr) (hs : s.cfg = c) : (runToken i s).All (·.cfg = c) := by
  cases i with
  | tokN => exact tokenN_cfg hs
  | tokC symbol => exact tokenLeaf_cfg symbol hs
  | tokZ => exact tokenZ_cfg hs
  | encBuild | encExport | encEncode | decBuild | decDecode | sessionEnd => exact hs

theorem fetchToken_cfg (s : State) : (fetchToken s).2.cfg = s.cfg := by
  obtain ⟨pos, e⟩ := fetchToken_frame s
  rw [e]

theorem importLoop_cfg (n : Nat) (hs : s.cfg = c) : (importLoop n s).All (·.cfg = c) := by
  induction n generalizing s with
  | zero => exact hs
  | succ n ih =>
    have hf := (fetchToken_cfg s).trans hs
    unfold importLoop
    split
    next u hu =>
      rw [hu] at hf
      exact hf
    next i u hu =>
      rw [hu] at hf
      refine .bind (runToken_cfg i hf) fun _ v hv => ?_
      split
      · exact hv
      · exact ih hv

theorem tcCheck_cfg (hs : s.cfg = c) : (tcCheck s).All (·.cfg = c) := by
  unfold tcCheck
  split
  · refine readNode_bind_all s.root fun n => ?_
    split <;> exact hs
  · exact hs

theorem decFinish_cfg (hs : s.cfg = c) : (decFinish s).All (·.cfg = c) := .bind (tcCheck_cfg hs) fun _ _ hu => hu

theorem decBuildRun_cfg (hs : s.cfg = c) : (decBuildRun s).All (·.cfg = c) :=
  .bind (importLoop_cfg _ hs) fun _ _ hu => decFinish_cfg hu

theorem buLoad_cfg (hs : s.cfg = c) : (buLoad s).All (·.cfg = c) := by
  obtain ⟨-, e⟩ | ⟨-, e⟩ := buLoad_cases s <;> rw [e] <;> exact hs

theorem buStep_cfg (hs : s.cfg = c) : (buStep s).All (·.cfg = c) := by
  cases h : buStep s with
  | go stop t =>
    obtain ⟨i, bytes, rfl⟩ := buStep_frame h
    exact hs
  | raised t => exact absurd h buStep_not_raised
  | fault f => trivial

theorem buWalk_cfg (n : Nat) (hs : s.cfg = c) : (buWalk n s).All (·.cfg = c) := by
  induction n generalizing s with
  | zero => exact hs
  | succ n ih =>
    unfold buWalk
    split
    · exact hs
    · refine .bind (buStep_cfg hs) fun stop _ hu => ?_
      split
      · exact hu
      · exact ih hu

theorem buLoop_cfg (n : Nat) (hs : s.cfg = c) : (buLoop n s).All (·.cfg = c) := by
  induction n generalizing s with
  | zero => exact .bind (buLoad_cfg hs) fun _ _ hu => hu
  | succ n ih =>
    refine .bind (buLoad_cfg hs) fun _ u hu => .bind (buWalk_cfg _ hu) fun stop _ hv => ?_
    split
    · exact hv
    · exact ih hv

theorem decDecodeRun_cfg (hs : s.cfg = c) : (decDecodeRun s).All (·.cfg = c) :=
  .bind (buLoop_cfg _ hs : (buRun (s.setPhase .decoding)).All (·.cfg = c)) fun _ _ hu => hu

/-! ### Instructions -/

variable {t : State}

theorem admitted_cfg {ok : Bool} {run : State → Run Unit} (hr : (run s).All (·.cfg = s.cfg))
    (h : admitted ok s run = .next t) : t.cfg = s.cfg := by
  obtain ⟨-, e⟩ | ⟨-, e⟩ := admitted_cases ok s run <;> rw [e] at h
  · exact hr.of_next h
  · cases h; rfl

theorem asToken_cfg {run : State → Run Unit} (hr : (run s).All (·.cfg = s.cfg)) (h : asToken s run = .next t) :
    t.cfg = s.cfg := by
  obtain ⟨-, e⟩ | ⟨-, e⟩ := asToken_cases s run <;> rw [e] at h
  · exact hr.of_next h
  · cases h; rfl

/-- No instruction changes the parameters. -/
theorem exec_cfg {i : Instr} (h : exec i s = .next t) : t.cfg = s.cfg := by
  cases i with
  | encBuild => exact admitted_cfg (encBuildRun_cfg rfl) h
  | encExport => exact admitted_cfg (encExportRun_cfg rfl) h
  | encEncode => exact admitted_cfg (encEncodeRun_cfg rfl) h
  | decBuild => exact admitted_cfg (decBuildRun_cfg rfl) h
  | decDecode => exact admitted_cfg (decDecodeRun_cfg rfl) h
  | sessionEnd => exact admitted_cfg (run := fun u => .go () u.endSession) rfl h
  | tokN => exact asToken_cfg (tokenN_cfg rfl) h
  | tokC symbol => exact asToken_cfg (tokenLeaf_cfg symbol rfl) h
  | tokZ => exact asToken_cfg (tokenZ_cfg rfl) h

/-! ### The host's turn and the parse's -/

/-- A delivered result changes only what the host has seen (10_state.md R49). -/
theorem reply_cfg {o : Host.Outcome State Fault Refusal} (ho : ∀ u, o = .next u → u.cfg = c) (h : reply o = .next t) :
    t.cfg = c := by
  cases o with
  | next u => cases h; exact ho u rfl
  | fault | refused => cases h

theorem issue_cfg {v : Byte} (h : issue v s = .next t) : t.cfg = s.cfg := by
  unfold issue at h
  split at h
  · exact exec_cfg h
  · cases h; rfl

theorem regWrite_cfg {n : Nat} {v : Byte} (h : regWrite n v s = .next t) : t.cfg = s.cfg := by
  unfold regWrite at h
  split at h
  · exact reply_cfg (fun _ hu => issue_cfg hu) h
  · cases h; rfl
  · cases h; rfl

theorem rstDuring_cfg {v : Byte} (h : rstDuring v s = .next t) : t.cfg = s.cfg := by
  unfold rstDuring at h
  split at h <;> cases h
  rfl

/-- No action of the host changes the parameters. -/
theorem hostAct_cfg {a : HostAction} (h : hostAct a s = .next t) : t.cfg = s.cfg := by
  cases a with
  | regWrite n v => exact regWrite_cfg h
  | rstDuring v => exact rstDuring_cfg h
  | stopUnlessOk n =>
    cases h
    split <;> rfl
  | attachIn | rewind | attachOut | takeOut | regRead | rst => cases h; rfl

theorem hostTurn_cfg (h : hostTurn s = .next t) : t.cfg = s.cfg := by
  unfold hostTurn at h
  split at h
  · cases h; rfl
  next a rest _ => exact hostAct_cfg (s := { s with script := rest }) h

theorem afterToken_cfg (h : afterToken s = .next t) : t.cfg = s.cfg := by
  unfold afterToken at h
  split at h
  · split at h
    · exact reply_cfg (fun _ hu => (decFinish_cfg rfl).of_next hu) h
    · cases h; rfl
  · cases h; rfl

theorem parseTurn_cfg (h : parseTurn s = .next t) : t.cfg = s.cfg := by
  have hf := fetchToken_cfg s
  unfold parseTurn at h
  split at h
  next u hu =>
    cases h
    rw [hu] at hf
    exact hf
  next i u hu =>
    rw [hu] at hf
    split at h
    next v hv => exact (afterToken_cfg h).trans ((exec_cfg hv).trans hf)
    · cases h
    · cases h

/-- No step changes the parameters. -/
theorem step_cfg (h : step s = .next t) : t.cfg = s.cfg := by
  unfold step at h
  split at h
  · exact hostTurn_cfg h
  · split at h
    · exact parseTurn_cfg h
    · cases h

end Sys2Proof.Machine
end

section
/-! SUPPORT. The byte order of payload words (20_memory.md R70). -/

namespace Sys2Proof.Machine

/-- Settles O25: both orders arrange the same bytes, most significant first, and no step changes the parameters. -/
theorem wordBytesFollowByteOrder : Obligations.WordBytesFollowByteOrder :=
  ⟨fun c w hw => ⟨wordBytes_length c w, fun ho _ => wordBytes_getElem?_BE ho w, fun ho _ => wordBytes_getElem?_LE ho w,
      bytesWord_wordBytes c hw⟩,
    fun _ _ hb => ⟨bytesWord_lt hb, wordBytes_bytesWord hb⟩,
    fun _ _ w hc hd => (wordBytes_of_W_eq_eight hc w).trans (wordBytes_of_W_eq_eight hd w).symm,
    rfl,
    fun _ _ h => congrArg Config.order (step_cfg h)⟩

end Sys2Proof.Machine
end

section
/-! SUPPORT. The encoding (30_encoding.md): the opcode map as the pairs of its list, and the token `C`. -/

namespace Sys2Proof

/-! ### Command opcodes -/

/-- In a list that names no key twice, what a lookup finds is what the list holds. -/
theorem lookup_eq_some_iff_mem {α β : Type} [BEq α] [LawfulBEq α] {k : α} {b : β} :
    ∀ {l : List (α × β)}, (l.map Prod.fst).Nodup → (l.lookup k = some b ↔ (k, b) ∈ l)
  | [], _ => by simp
  | (k', b') :: l, hl => by
    obtain ⟨hk', hl⟩ := List.nodup_cons.mp hl
    have ih := lookup_eq_some_iff_mem (k := k) (b := b) hl
    by_cases hk : k = k'
    · subst hk
      have hnot : (k, b) ∉ l := fun hm => hk' (List.mem_map.mpr ⟨_, hm, rfl⟩)
      simp [hnot, eq_comm]
    · simp [List.lookup_cons, beq_false_of_ne hk, hk, ih]

/-- 30_encoding.md R92: no opcode is assigned twice. -/
theorem opcodeMap_keys_nodup : (opcodeMap.map Prod.fst).Nodup := by decide

/-- A byte decodes to a command exactly as the opcode map lists it. -/
theorem decodeCommand_eq_ok_iff {op : Byte} {i : Instr} : decodeCommand op = .ok i ↔ (op, i) ∈ opcodeMap := by
  rw [← lookup_eq_some_iff_mem opcodeMap_keys_nodup]
  unfold decodeCommand
  split
  next j hj => simp [hj]
  next hn => simp [hn]

/-- Settles O1: the opcode map names no byte twice, so a byte decodes to what its six pairs say and to nothing else. -/
theorem commandOpcodesAreTheMap : Obligations.CommandOpcodesAreTheMap := by
  intro op i
  rw [decodeCommand_eq_ok_iff]
  simp [opcodeMap]

/-! ### Token `C` -/

/-- After the marker `C` the next byte is the literal, whatever its value (30_encoding.md R95). -/
@[simp] theorem decodeToken_markerC_cons (lit : Byte) (rest : List Byte) :
    decodeToken (markerC :: lit :: rest) = .ok (.tokC (literalSymbol lit), rest) := rfl

/-- A literal symbol has the value of its byte. -/
@[simp] theorem literalSymbol_toNat (lit : Byte) : (literalSymbol lit).toNat = lit.toNat :=
  BitVec.toNat_setWidth_of_le (by decide)

/-- A literal symbol is below the sentinel (30_encoding.md R95). -/
@[simp] theorem literalOk_literalSymbol (lit : Byte) : literalOk (literalSymbol lit) = true := by
  have hlt : (literalSymbol lit).toNat < 256 := (literalSymbol_toNat lit).trans_lt lit.isLt
  exact decide_eq_true hlt

/-- Settles O3: the literal is taken as it stands, and `zext_9` keeps its value, which a byte holds below 256. -/
theorem everyLiteralByteIsLegal : Obligations.EveryLiteralByteIsLegal := fun lit rest =>
  ⟨decodeToken_markerC_cons lit rest, literalSymbol_toNat lit, literalOk_literalSymbol lit⟩

end Sys2Proof
end

section
/-! SUPPORT. The operations of the Tree Builder, each with everything it leaves: TB.INIT, `remove_min` and TB.MERGE
(40_tree_builder.md R124 to R126). -/

namespace Sys2Proof.Machine

/-! ### TB.INIT -/

/-- The symbols of positive frequency among some, in the order given. -/
def State.present (s : State) (l : List (Fin 257)) : List (Fin 257) := l.filter fun symbol => decide (0 < s.freqOf symbol)

theorem State.mem_present {s : State} {l : List (Fin 257)} {c : Fin 257} : c ∈ s.present l ↔ c ∈ l ∧ 0 < s.freqOf c := by
  simp [State.present]

theorem State.present_nodup (s : State) {l : List (Fin 257)} (hl : l.Nodup) : (s.present l).Nodup := hl.filter _

theorem State.present_cons_of_pos {s : State} {c : Fin 257} (h : 0 < s.freqOf c) (l : List (Fin 257)) :
    s.present (c :: l) = c :: s.present l := List.filter_cons_of_pos (by simpa using h)

theorem State.present_cons_of_not {s : State} {c : Fin 257} (h : ¬ 0 < s.freqOf c) (l : List (Fin 257)) :
    s.present (c :: l) = s.present l := List.filter_cons_of_neg (by simpa using h)

/-- The sentinel is the last of the symbols that occur (40_tree_builder.md R124). -/
theorem State.present_all (s : State) :
    s.present (List.finRange 257) =
      ((List.finRange 256).filter fun b => decide (0 < s.freqOf b.castSucc)).map Fin.castSucc ++ [sentinelSymbol] := by
  rw [State.present, List.finRange_succ_last, List.filter_append, List.filter_map]
  rfl

theorem tbLeaf_present (c : Fin 257) (s : State) (l : List (Fin 257)) : (tbLeaf c s).present l = s.present l := by
  simp only [State.present, tbLeaf_freqOf]

/-- A turn of TB.INIT writes LEAF_OF of its symbol only. -/
theorem tbLeaf_leafIndex (c x : Fin 257) (s : State) :
    (tbLeaf c s).leafIndex x =
      if x = c then if 0 < s.freqOf c then some s.nextIndex else none else s.leafIndex x := by
  have hset (i : Option Index) : (s.leafOf.set c.val i)[x.val] = if x = c then i else s.leafIndex x := by
    rw [Vector.getElem_set]
    simp only [Fin.ext_iff, eq_comm, State.leafIndex]
  unfold tbLeaf
  split
  · exact hset _
  · exact hset _

/-- What the turns of TB.INIT for some symbols add to the arena and to Q. -/
theorem tbLeaf_foldl (l : List (Fin 257)) (s : State) :
    (l.foldl (fun t c => tbLeaf c t) s).nodes = s.nodes ++ (s.present l).map (fun c => newLeaf c (s.freqOf c)) ∧
    (l.foldl (fun t c => tbLeaf c t) s).q =
      s.q ++ (List.range' s.nodeN (s.present l).length).map (BitVec.ofNat 10) := by
  induction l generalizing s with
  | nil => simp [State.present]
  | cons c l ih =>
    obtain ⟨hnodes, hq⟩ := ih (tbLeaf c s)
    simp only [tbLeaf_present, tbLeaf_freqOf] at hnodes hq
    rw [List.foldl_cons, hnodes, hq]
    obtain ⟨hpos, en, eq⟩ | ⟨hzero, en, eq⟩ := tbLeaf_cases c s
    · rw [State.present_cons_of_pos hpos, en, eq, State.nodeN, en]
      simp [List.range'_succ, State.nextIndex, State.nodeN]
    · rw [State.present_cons_of_not hzero, en, eq, State.nodeN, en]
      exact ⟨rfl, rfl⟩

/-- What the turns of TB.INIT for different symbols leave in LEAF_OF. -/
theorem tbLeaf_foldl_leafIndex {l : List (Fin 257)} (hl : l.Nodup) (s : State) (x : Fin 257) :
    (l.foldl (fun t c => tbLeaf c t) s).leafIndex x =
      if x ∈ l then
        if 0 < s.freqOf x then some (BitVec.ofNat 10 (s.nodeN + (s.present l).idxOf x)) else none
      else s.leafIndex x := by
  induction l generalizing s with
  | nil => simp
  | cons c l ih =>
    obtain ⟨hc, hl⟩ := List.nodup_cons.mp hl
    rw [List.foldl_cons, ih hl (tbLeaf c s), tbLeaf_leafIndex, tbLeaf_freqOf, tbLeaf_present]
    by_cases hx : x = c
    · subst hx
      by_cases hpos : 0 < s.freqOf x
      · simp [hc, hpos, State.present_cons_of_pos hpos, State.nextIndex]
      · simp [hc, hpos]
    · have hN : (tbLeaf c s).nodeN + (s.present l).idxOf x = s.nodeN + (s.present (c :: l)).idxOf x := by
        obtain ⟨hpos, en, -⟩ | ⟨hzero, en, -⟩ := tbLeaf_cases c s
        · rw [State.present_cons_of_pos hpos, List.idxOf_cons_ne _ (Ne.symm hx), State.nodeN, en, List.length_append]
          simp only [State.nodeN, List.length_singleton]
          omega
        · rw [State.present_cons_of_not hzero, State.nodeN, en, State.nodeN]
      simp [hx, hN]

section Init

variable {s : State} (hs : s.nodes = [])

include hs

theorem tbInit_nodes :
    (tbInit s).nodes = (s.present (List.finRange 257)).map fun c => newLeaf c (s.freqOf c) := by
  obtain ⟨h, -⟩ := tbLeaf_foldl (List.finRange 257) { s with q := [] }
  exact h.trans (by rw [hs]; rfl)

theorem tbInit_q : (tbInit s).q = (List.range (s.present (List.finRange 257)).length).map (BitVec.ofNat 10) := by
  obtain ⟨-, h⟩ := tbLeaf_foldl (List.finRange 257) { s with q := [] }
  exact h.trans (by rw [List.range_eq_range', State.nodeN, hs]; rfl)

theorem tbInit_leafIndex (x : Fin 257) :
    (tbInit s).leafIndex x =
      if 0 < s.freqOf x then some (BitVec.ofNat 10 ((s.present (List.finRange 257)).idxOf x)) else none := by
  refine (tbLeaf_foldl_leafIndex (List.nodup_finRange 257) { s with q := [] } x).trans ?_
  rw [if_pos (List.mem_finRange x), State.nodeN, hs, List.length_nil, Nat.zero_add]
  rfl

end Init

/-! ### remove_min -/

/-- The order of Q as a non-strict order: the key (`NODE[i].freq`, i) is at most (`NODE[j].freq`, j)
(40_tree_builder.md R125). -/
def State.keyLe (s : State) (i j : Index) : Prop := s.freqAt i < s.freqAt j ∨ s.freqAt i = s.freqAt j ∧ i.toNat ≤ j.toNat

theorem State.keyLe_refl (s : State) (i : Index) : s.keyLe i i := .inr ⟨rfl, Nat.le_refl _⟩

theorem State.keyLe_trans {s : State} {i j k : Index} (h : s.keyLe i j) (h' : s.keyLe j k) : s.keyLe i k := by
  unfold State.keyLe at *
  omega

theorem State.before_iff_not_keyLe {s : State} {i j : Index} : s.before i j = true ↔ ¬ s.keyLe j i := by
  simp only [State.before, State.keyLe, Bool.or_eq_true, Bool.and_eq_true, decide_eq_true_eq]
  omega

/-- Of two elements the one that is kept has the lesser key. -/
theorem State.keyLe_pick (s : State) (i j : Index) :
    s.keyLe (if s.before j i then j else i) i ∧ s.keyLe (if s.before j i then j else i) j := by
  split
  next h =>
    refine ⟨?_, s.keyLe_refl j⟩
    rw [State.before_iff_not_keyLe] at h
    unfold State.keyLe at *
    omega
  next h =>
    rw [State.before_iff_not_keyLe, not_not] at h
    exact ⟨s.keyLe_refl i, h⟩

theorem State.least_keyLe (s : State) (i : Index) (others : List Index) :
    ∀ j ∈ i :: others, s.keyLe (s.least i others) j := by
  induction others generalizing i with
  | nil => exact fun j hj => List.mem_singleton.mp hj ▸ s.keyLe_refl _
  | cons k others ih =>
    obtain ⟨hi, hk⟩ := s.keyLe_pick i k
    have hmin := ih (if s.before k i then k else i)
    have hpick := hmin _ List.mem_cons_self
    intro j hj
    simp only [List.mem_cons] at hj
    obtain rfl | rfl | hj := hj
    · exact State.keyLe_trans hpick hi
    · exact State.keyLe_trans hpick hk
    · exact hmin j (List.mem_cons_of_mem _ hj)

/-- `remove_min` takes the element of least key out of Q (40_tree_builder.md R125). -/
theorem removeMin_least {s : State} (hq : s.q ≠ []) :
    ∃ m, removeMin s = .go m { s with q := s.q.erase m } ∧ m ∈ s.q ∧ ∀ j ∈ s.q, s.keyLe m j := by
  obtain ⟨e, -⟩ | ⟨i, others, hi, e⟩ := removeMin_cases s
  · exact absurd e hq
  · exact ⟨_, e, hi ▸ s.least_mem i others, hi ▸ s.least_keyLe i others⟩

/-! ### TB.MERGE -/

theorem State.freqAt_eq {s : State} {i : Index} {n : Node} (h : s.node? i = some n) : s.freqAt i = n.freq := by
  rw [State.freqAt, h]

theorem State.node?_of_lt {s : State} {i : Index} (h : i.toNat < s.nodes.length) : ∃ n, s.node? i = some n :=
  ⟨_, List.getElem?_eq_getElem h⟩

/-- The state after TB.MERGE has taken `a` and `b` out of Q (40_tree_builder.md R126). -/
def State.merged (a b : Index) (s : State) : State :=
  { s.alloc ⟨.internal (some a) (some b), s.freqAt a + s.freqAt b, 0#9, 0#256⟩ with
    q := (s.q.erase a).erase b ++ [s.nextIndex] }

/-- TB.MERGE on at least two valid indices: the two of least key leave Q, and a node that joins them enters it. -/
theorem tbMerge_least {s : State} (h2 : 2 ≤ s.q.length) (hv : ∀ j ∈ s.q, j.toNat < s.nodes.length) :
    ∃ a b, a ∈ s.q ∧ b ∈ s.q.erase a ∧ (∀ j ∈ s.q, s.keyLe a j) ∧ (∀ j ∈ s.q.erase a, s.keyLe b j) ∧
      tbMerge s = .go () (s.merged a b) := by
  obtain ⟨a, ea, ha, hamin⟩ := removeMin_least (s := s) (List.ne_nil_of_length_pos (by omega))
  obtain ⟨b, eb, hb, hbmin⟩ := removeMin_least (s := { s with q := s.q.erase a })
    (List.ne_nil_of_length_pos (by rw [List.length_erase_of_mem ha]; omega))
  obtain ⟨na, hna⟩ := State.node?_of_lt (hv a ha)
  obtain ⟨nb, hnb⟩ := State.node?_of_lt (hv b (List.mem_of_mem_erase hb))
  refine ⟨a, b, ha, hb, hamin, hbmin, ?_⟩
  have hra : readNode a { s with q := (s.q.erase a).erase b } = .go na { s with q := (s.q.erase a).erase b } := readNode_eq hna
  have hrb : readNode b { s with q := (s.q.erase a).erase b } = .go nb { s with q := (s.q.erase a).erase b } := readNode_eq hnb
  rw [tbMerge, ea, Run.bind_go, eb, Run.bind_go, hra, Run.bind_go, hrb, Run.bind_go, State.merged, State.freqAt_eq hna,
    State.freqAt_eq hnb]
  rfl

/-! ### The statements about TB.INIT and TB.MERGE -/

/-- Settles O30: the turns of the loop one by one, the sentinel's the last. -/
theorem initMakesTheLeavesInOrder : Obligations.InitMakesTheLeavesInOrder := by
  intro s hs
  refine ⟨⟨_, s.present_all⟩, ?_, tbInit_q hs, tbInit_leafIndex hs, ?_⟩
  · rw [tbInit_nodes hs, List.map_map]
    rfl
  · exact tbInit_frame s

/-- Settles O32: `remove_min` twice, each time the least key of what Q holds. -/
theorem mergeJoinsTheTwoLeast : Obligations.MergeJoinsTheTwoLeast := by
  intro s h2 _ hv
  obtain ⟨a, b, ha, hb, hamin, hbmin, hmerge⟩ := tbMerge_least h2 hv
  have hbq := List.mem_of_mem_erase hb
  obtain ⟨na, hna⟩ := State.node?_of_lt (hv a ha)
  obtain ⟨nb, hnb⟩ := State.node?_of_lt (hv b hbq)
  have hkey {i j : Index} {n m : Node} (hn : s.node? i = some n) (hm : s.node? j = some m) (h : s.keyLe i j) :
      n.freq < m.freq ∨ n.freq = m.freq ∧ i.toNat ≤ j.toNat := by
    rwa [State.keyLe, State.freqAt_eq hn, State.freqAt_eq hm] at h
  have hsum : s.freqAt a + s.freqAt b = na.freq + nb.freq := by rw [State.freqAt_eq hna, State.freqAt_eq hnb]
  refine ⟨a, b, _, _, ha, hb, hna, hnb, fun j hj _ hj' => hkey hna hj' (hamin j hj),
    fun j hj _ hj' => hkey hnb hj' (hbmin j hj), ?_, _, _, hmerge, rfl, hsum, rfl⟩
  obtain h | ⟨h, -⟩ := hkey hna hnb (hamin b hbq)
  · exact Nat.le_of_lt h
  · exact Nat.le_of_eq h

end Sys2Proof.Machine
end

section
/-! SUPPORT. The tally of ENC_BUILD on an input that the counters can hold (40_tree_builder.md R121; 44_encoder_commands.md
R191). -/

namespace Sys2Proof.Machine

theorem State.freqOf_byteSymbol (s : State) (b : Byte) : s.freqOf (byteSymbol b) = s.freq[b.toNat] := dif_pos b.isLt

/-- A symbol of the table is a byte or the sentinel (10_state.md R21). -/
theorem eq_byteSymbol_or_sentinel (c : Fin 257) : (∃ b, c = byteSymbol b) ∨ c = sentinelSymbol := by
  obtain ⟨k, hk⟩ := c
  by_cases h : k < 256
  · exact .inl ⟨BitVec.ofNatLT k h, rfl⟩
  · exact .inr (Fin.ext (show k = 256 by omega))

/-- The state after the byte under the cursor has been read and counted (40_tree_builder.md R121). -/
def State.counted (b : Byte) (s : State) : State :=
  { s with
    freq := s.freq.set b.toNat (s.freq[b.toNat] + 1)
    inCount := s.inCount + 1
    mem := { s.mem with pos := s.mem.pos + 1 } }

@[simp] theorem State.counted_cfg (b : Byte) (s : State) : (s.counted b).cfg = s.cfg := rfl
@[simp] theorem State.counted_inCount (b : Byte) (s : State) : (s.counted b).inCount = s.inCount + 1 := rfl
@[simp] theorem State.counted_pos (b : Byte) (s : State) : (s.counted b).mem.pos = s.mem.pos + 1 := rfl

theorem State.counted_freqOf (b c : Byte) (s : State) :
    (s.counted b).freqOf (byteSymbol c) = s.freqOf (byteSymbol c) + if b = c then 1 else 0 := by
  simp only [State.freqOf_byteSymbol, State.counted, Vector.getElem_set, BitVec.toNat_inj]
  split
  next h => subst h; rfl
  · rfl

/-- A turn of the tally with room in the counters. -/
theorem tally_succ {n : Nat} {s : State} {b : Byte} {l : List Byte} (hl : s.mem.rest = b :: l)
    (h : s.inCount ≠ s.cfg.maxCount) : tally (n + 1) s = tally n (s.counted b) := by
  obtain ⟨e, -⟩ | ⟨b', l', e, -, hread⟩ := s.inRead_cases <;> rw [hl] at e <;> cases e
  obtain ⟨hfull, -⟩ | ⟨-, hcount⟩ := stCount_cases b { s with mem := { s.mem with pos := s.mem.pos + 1 } }
  · exact absurd hfull h
  · rw [tally, hread]
    simp only [hcount, Run.bind_go]
    rfl

/-- The tally of an input that the counters can hold counts each byte and moves the cursor past the input
(40_tree_builder.md R121; 44_encoder_commands.md R191). -/
theorem tally_go {s : State} {l : List Byte} (hl : s.mem.rest = l) (h : s.inCount + l.length ≤ s.cfg.maxCount) :
    ∃ u, tally l.length s = .go () u ∧ (∀ c, u.freqOf (byteSymbol c) = s.freqOf (byteSymbol c) + l.count c) ∧
      u.inCount = s.inCount + l.length ∧ u.mem.pos = s.mem.pos + l.length := by
  induction l generalizing s with
  | nil => exact ⟨s, rfl, fun _ => rfl, rfl, rfl⟩
  | cons b l ih =>
    rw [List.length_cons] at h
    obtain ⟨u, hu, hfreq, hin, hpos⟩ := ih (s := s.counted b) (Memory.rest_succ hl) (by simp; omega)
    refine ⟨u, ?_, fun c => ?_, ?_, ?_⟩
    · rw [List.length_cons, tally_succ hl (by omega), hu]
    · rw [hfreq, State.counted_freqOf, List.count_cons, Nat.add_assoc, Nat.add_comm (List.count c l)]
      simp only [beq_iff_eq]
    · rw [hin, State.counted_inCount, List.length_cons]
      omega
    · rw [hpos, State.counted_pos, List.length_cons]
      omega

/-- What ENC_BUILD's tally leaves of a block in Idle: the counts of the input, and otherwise the block as it was. -/
structure Tallied (s u : State) : Prop where
  freqOf : ∀ b, u.freqOf (byteSymbol b) = s.input.count b
  frame : u = { s.enter .encoder .countingFrequencies with
    freq := u.freq, inCount := s.input.length, mem := { s.mem with pos := s.mem.pos + s.input.length } }

theorem Tallied.nodes {s u : State} (h : Tallied s u) : u.nodes = s.nodes := by rw [h.frame]; rfl

theorem Tallied.inCount {s u : State} (h : Tallied s u) : u.inCount = s.input.length := by rw [h.frame]

/-- The frequencies add up to one more than the bytes of the input (40_tree_builder.md R130). -/
theorem Tallied.sum_freqOf {s u : State} (h : Tallied s u) : ∑ c, u.freqOf c = s.input.length + 1 := by
  have hbyte (i : Fin 256) : u.freqOf i.castSucc = (s.input.map BitVec.toFin : Multiset (Fin 256)).count i := by
    have hcount := List.count_map_of_injective s.input (BitVec.toFin (w := 8)) (fun a b e => BitVec.eq_of_toFin_eq e)
      (BitVec.ofFin i)
    rw [Multiset.coe_count]
    exact (h.freqOf (BitVec.ofFin i)).trans hcount.symm
  rw [Fin.sum_univ_castSucc, Finset.sum_congr rfl fun i _ => hbyte i, Multiset.sum_count_eq_card fun i _ => Finset.mem_univ i,
    Multiset.coe_card, List.length_map]
  rfl

theorem encBuild_tallied {s : State} (hmax : s.input.length ≤ s.cfg.maxCount) :
    ∃ u, tally s.mem.rest.length (stClear (s.enter .encoder .countingFrequencies)) = .go () u ∧ Tallied s u := by
  obtain ⟨u, hu, hfreq, hin, hpos⟩ := tally_go
    (s := stClear (s.enter .encoder .countingFrequencies)) (l := s.input) rfl (by simpa using hmax)
  refine ⟨u, hu, fun b => ?_, ?_⟩
  · rw [hfreq]
    simp [State.freqOf_byteSymbol]
  · rw [tally_frame hu, hin, hpos]
    simp [stClear]

end Sys2Proof.Machine
end

section
/-! SUPPORT. The merges of TB.BUILD: what each keeps, that they end, and what the last one leaves
(40_tree_builder.md R127, R130). -/

namespace Sys2Proof.Machine

/-! ### Entries of the arena -/

/-- Each Internal entry joins two entries of lower index, and its frequency is their sum (40_tree_builder.md R130 (a), (d)). -/
def Summed (nodes : List Node) : Prop :=
  ∀ k n, nodes[k]? = some n → n.isLeaf = false → ∃ (l r : Index) (nl nr : Node), n.kind = .internal (some l) (some r) ∧
    l.toNat < k ∧ r.toNat < k ∧ nodes[l.toNat]? = some nl ∧ nodes[r.toNat]? = some nr ∧ n.freq = nl.freq + nr.freq

/-- The number of leaves of a symbol. -/
def leafCount (nodes : List Node) (symbol : Symbol) : Nat := nodes.countP fun n => decide (n.kind = .leaf symbol)

theorem isLeaf_eq_false_of_kind {n : Node} {l r : Option Index} (h : n.kind = .internal l r) : n.isLeaf = false := by
  rw [Node.isLeaf, h]

theorem Summed.append {nodes : List Node} (h : Summed nodes) {n : Node}
    (hn : n.isLeaf = false → ∃ (l r : Index) (nl nr : Node), n.kind = .internal (some l) (some r) ∧
      nodes[l.toNat]? = some nl ∧ nodes[r.toNat]? = some nr ∧ n.freq = nl.freq + nr.freq) : Summed (nodes ++ [n]) := by
  have hold : ∀ {k : Nat} {m : Node}, nodes[k]? = some m → k < nodes.length ∧ (nodes ++ [n])[k]? = some m := fun hm => by
    have hlt := (List.getElem?_eq_some_iff.mp hm).1
    exact ⟨hlt, by rw [List.getElem?_append_left hlt, hm]⟩
  intro k m hm hleaf
  by_cases hk : k < nodes.length
  · rw [List.getElem?_append_left hk] at hm
    obtain ⟨l, r, nl, nr, hkind, hl, hr, hnl, hnr, hsum⟩ := h k m hm hleaf
    exact ⟨l, r, nl, nr, hkind, hl, hr, (hold hnl).2, (hold hnr).2, hsum⟩
  · obtain ⟨rfl, rfl⟩ : k = nodes.length ∧ m = n := by
      rw [List.getElem?_append_right (by omega), List.getElem?_singleton] at hm
      split at hm
      · exact ⟨by omega, by simpa using hm.symm⟩
      · cases hm
    obtain ⟨l, r, nl, nr, hkind, hnl, hnr, hsum⟩ := hn hleaf
    exact ⟨l, r, nl, nr, hkind, (hold hnl).1, (hold hnr).1, (hold hnl).2, (hold hnr).2, hsum⟩

/-- What CA.ASSIGN keeps of each entry: all but the code. -/
def Node.uncoded (n : Node) : NodeKind × Nat := (n.kind, n.freq)

section Recoded

variable {nodes nodes' : List Node} (h : nodes'.map Node.uncoded = nodes.map Node.uncoded)

include h

theorem entry_of_recoded {k : Nat} {n : Node} (hn : nodes[k]? = some n) :
    ∃ n', nodes'[k]? = some n' ∧ n'.kind = n.kind ∧ n'.freq = n.freq := by
  have e : (nodes'[k]?).map Node.uncoded = some n.uncoded := by
    rw [← List.getElem?_map, h, List.getElem?_map, hn, Option.map_some]
  obtain ⟨n', hn', huncoded⟩ := Option.map_eq_some_iff.mp e
  exact ⟨n', hn', congrArg Prod.fst huncoded, congrArg Prod.snd huncoded⟩

theorem Summed.of_recoded (hs : Summed nodes) : Summed nodes' := by
  intro k n' hn' hleaf
  obtain ⟨n, hn, hkind, hfreq⟩ := entry_of_recoded h.symm hn'
  obtain ⟨l, r, nl, nr, hk, hl, hr, hnl, hnr, hsum⟩ := hs k n hn (by rwa [Node.isLeaf, hkind])
  obtain ⟨nl', hnl', -, hfl⟩ := entry_of_recoded h hnl
  obtain ⟨nr', hnr', -, hfr⟩ := entry_of_recoded h hnr
  exact ⟨l, r, nl', nr', hkind ▸ hk, hl, hr, hnl', hnr', by omega⟩

theorem leafCount_of_recoded (symbol : Symbol) : leafCount nodes' symbol = leafCount nodes symbol := by
  have e (l : List Node) : leafCount l symbol = (l.map Node.uncoded).countP fun x => decide (x.1 = .leaf symbol) := by
    rw [List.countP_map]
    rfl
  rw [e, e, h]

end Recoded

/-! ### What the merges keep -/

/-- The state between two merges of a build from the frequencies of `table` (40_tree_builder.md R127). -/
structure Growing (table s : State) : Prop where
  /-- Each merge adds an entry and takes an element of Q, so that 513 entries are the most there can be. -/
  room : s.nodeN + s.q.length ≤ 514
  valid : ∀ j ∈ s.q, j.toNat < s.nodeN
  /-- The newest entry is in Q: the last element left is the last node allocated. -/
  newest : ∃ i ∈ s.q, i.toNat + 1 = s.nodeN
  sums : Summed s.nodes
  leaves : ∀ c : Fin 257, leafCount s.nodes (BitVec.ofNat 9 c.val) = if 0 < table.freqOf c then 1 else 0
  weight : (s.q.map s.freqAt).sum = ∑ c, table.freqOf c

theorem State.merged_freqAt_old {s : State} {i : Index} (a b : Index) (h : i.toNat < s.nodeN) :
    (s.merged a b).freqAt i = s.freqAt i := by
  obtain ⟨m, hm⟩ := State.node?_of_lt h
  have hm' : (s.merged a b).node? i = some m := s.alloc_node?_old _ m i hm
  rw [State.freqAt_eq hm, State.freqAt_eq hm']

theorem State.merged_freqAt_next {s : State} (a b : Index) (h : s.nodeN < 1024) :
    (s.merged a b).freqAt s.nextIndex = s.freqAt a + s.freqAt b :=
  State.freqAt_eq (s := s.merged a b) (s.alloc_node?_next _ h)

@[simp] theorem State.merged_nodeN (a b : Index) (s : State) : (s.merged a b).nodeN = s.nodeN + 1 := s.alloc_nodeN _

@[simp] theorem State.merged_q (a b : Index) (s : State) : (s.merged a b).q = (s.q.erase a).erase b ++ [s.nextIndex] := rfl

theorem ofNat_symbol_injective : Function.Injective fun c : Fin 257 => NodeKind.leaf (BitVec.ofNat 9 c.val) := by
  intro a b e
  have := congrArg BitVec.toNat (NodeKind.leaf.inj e)
  simp only [BitVec.toNat_ofNat] at this
  omega

theorem sum_present (s : State) (l : List (Fin 257)) : ((s.present l).map s.freqOf).sum = (l.map s.freqOf).sum := by
  induction l with
  | nil => rfl
  | cons c l ih =>
    by_cases h : 0 < s.freqOf c
    · rw [State.present_cons_of_pos h, List.map_cons, List.map_cons, List.sum_cons, List.sum_cons, ih]
    · rw [State.present_cons_of_not h, List.map_cons, List.sum_cons, ih]
      omega

section Init

variable {s : State} (hs : s.nodes = [])

include hs

theorem tbInit_nodeN : (tbInit s).nodeN = (s.present (List.finRange 257)).length := by
  rw [State.nodeN, tbInit_nodes hs, List.length_map]

/-- The indices TB.INIT hands out count the leaves (40_tree_builder.md R124). -/
theorem ofNat_toNat_of_lt_tbInit {k : Nat} (hk : k < (tbInit s).nodeN) : (BitVec.ofNat 10 k).toNat = k := by
  obtain ⟨-, -, hle⟩ := tbInit_forest hs
  rw [BitVec.toNat_ofNat]
  omega

theorem mem_tbInit_q {i : Index} : i ∈ (tbInit s).q ↔ ∃ k < (tbInit s).nodeN, BitVec.ofNat 10 k = i := by
  rw [tbInit_q hs, tbInit_nodeN hs]
  simp only [List.mem_map, List.mem_range]

theorem tbInit_leafCount (c : Fin 257) :
    leafCount (tbInit s).nodes (BitVec.ofNat 9 c.val) = if 0 < s.freqOf c then 1 else 0 := by
  have hcount := List.count_map_of_injective (s.present (List.finRange 257)) _ ofNat_symbol_injective c
  rw [List.count, List.countP_map] at hcount
  calc leafCount (tbInit s).nodes (BitVec.ofNat 9 c.val)
      = (s.present (List.finRange 257)).count c := by
        rw [leafCount, tbInit_nodes hs, List.countP_map, ← hcount]
        exact List.countP_congr fun x _ => by simp [newLeaf]
    _ = if 0 < s.freqOf c then 1 else 0 := by
        rw [(s.present_nodup (List.nodup_finRange 257)).count]
        simp [State.mem_present]

theorem tbInit_q_freqs : (tbInit s).q.map (tbInit s).freqAt = (s.present (List.finRange 257)).map s.freqOf := by
  rw [tbInit_q hs, List.map_map]
  refine List.ext_getElem (by simp) fun k _ h => ?_
  rw [List.length_map] at h
  obtain ⟨c, hc⟩ : ∃ c, (s.present (List.finRange 257))[k] = c := ⟨_, rfl⟩
  have hn : (tbInit s).node? (BitVec.ofNat 10 k) = some (newLeaf c (s.freqOf c)) := by
    rw [State.node?, ofNat_toNat_of_lt_tbInit hs (by rwa [tbInit_nodeN hs]), tbInit_nodes hs, List.getElem?_map,
      List.getElem?_eq_getElem h, hc, Option.map_some]
  simp [State.freqAt_eq hn, newLeaf, hc]

/-- TB.INIT starts the merges. -/
theorem tbInit_growing : Growing s (tbInit s) := by
  obtain ⟨-, hlen, hle⟩ := tbInit_forest hs
  have hpos : 0 < (tbInit s).nodeN := by rw [tbInit_nodeN hs, s.present_all]; simp
  refine ⟨by omega, fun j hj => ?_, ?_, fun k n hn hleaf => ?_, tbInit_leafCount hs, ?_⟩
  · obtain ⟨k, hk, rfl⟩ := (mem_tbInit_q hs).mp hj
    rwa [ofNat_toNat_of_lt_tbInit hs hk]
  · refine ⟨BitVec.ofNat 10 ((tbInit s).nodeN - 1), (mem_tbInit_q hs).mpr ⟨_, by omega, rfl⟩, ?_⟩
    rw [ofNat_toNat_of_lt_tbInit hs (by omega)]
    omega
  · rw [tbInit_nodes hs, List.getElem?_map] at hn
    obtain ⟨c, -, rfl⟩ := Option.map_eq_some_iff.mp hn
    cases hleaf
  · rw [tbInit_q_freqs hs, sum_present, Fin.sum_univ_def]

end Init

/-- A merge goes on, and keeps what the merges keep. -/
theorem tbMerge_growing {table s : State} (hs : Growing table s) (h2 : 2 ≤ s.q.length) :
    ∃ t, tbMerge s = .go () t ∧ Growing table t ∧ t.q.length + 1 = s.q.length := by
  obtain ⟨a, b, ha, hb, -, -, hmerge⟩ := tbMerge_least h2 hs.valid
  obtain ⟨na, hna⟩ := State.node?_of_lt (hs.valid a ha)
  obtain ⟨nb, hnb⟩ := State.node?_of_lt (hs.valid b (List.mem_of_mem_erase hb))
  have hroom := hs.room
  have hnext : s.nextIndex.toNat = s.nodeN := by
    rw [State.nextIndex, BitVec.toNat_ofNat]
    omega
  have hlen : ((s.q.erase a).erase b).length + 2 = s.q.length := by
    have := List.length_erase_of_mem ha
    have := List.length_erase_of_mem hb
    omega
  have hrest : ∀ j ∈ (s.q.erase a).erase b, j.toNat < s.nodeN := fun j hj =>
    hs.valid j (List.mem_of_mem_erase (List.mem_of_mem_erase hj))
  refine ⟨_, hmerge, ⟨?_, fun j hj => ?_, ⟨s.nextIndex, by simp, by simp [hnext]⟩, ?_, fun c => ?_, ?_⟩, ?_⟩
  · rw [State.merged_nodeN, State.merged_q, List.length_append, List.length_singleton]
    omega
  · rw [State.merged_nodeN]
    obtain hj | hj := List.mem_append.mp hj
    · exact Nat.lt_succ_of_lt (hrest j hj)
    · rw [List.mem_singleton.mp hj, hnext]
      exact Nat.lt_succ_self _
  · exact hs.sums.append fun _ => ⟨a, b, na, nb, rfl, hna, hnb, by
      rw [State.freqAt_eq hna, State.freqAt_eq hnb]⟩
  · rw [← hs.leaves c, leafCount, State.merged, State.alloc_nodes, List.countP_append, leafCount]
    simp
  · have hkept : ((s.q.erase a).erase b).map (s.merged a b).freqAt = ((s.q.erase a).erase b).map s.freqAt :=
      List.map_congr_left fun j hj => State.merged_freqAt_old a b (hrest j hj)
    rw [← hs.weight, ((List.perm_cons_erase ha).map s.freqAt).sum_eq, List.map_cons, List.sum_cons,
      ((List.perm_cons_erase hb).map s.freqAt).sum_eq, List.map_cons, List.sum_cons, State.merged_q, List.map_append,
      List.sum_append, hkept, List.map_singleton, List.sum_singleton, State.merged_freqAt_next a b (by omega)]
    omega
  · rw [State.merged_q, List.length_append, List.length_singleton]
    omega

theorem tbMergeAll_succ (fuel : Nat) {s : State} (h : 1 < s.q.length) :
    tbMergeAll (fuel + 1) s = (tbMerge s).bind fun _ t => tbMergeAll fuel t := by rw [tbMergeAll, if_pos h]

theorem tbMergeAll_of_single (fuel : Nat) {s : State} {r : Index} (h : s.q = [r]) : tbMergeAll fuel s = .go () s := by
  cases fuel with
  | zero => rfl
  | succ fuel => rw [tbMergeAll, if_neg (by simp [h])]

/-- The merges end with one element in Q (40_tree_builder.md R127). -/
theorem tbMergeAll_growing {table : State} {fuel : Nat} {s : State} (hs : Growing table s) (hf : s.q.length ≤ fuel) :
    ∃ t r, tbMergeAll fuel s = .go () t ∧ Growing table t ∧ t.q = [r] := by
  obtain ⟨i, hi, -⟩ := hs.newest
  have hpos := List.length_pos_of_mem hi
  induction fuel generalizing s i with
  | zero => omega
  | succ fuel ih =>
    by_cases h : 1 < s.q.length
    · obtain ⟨u, hu, hgrow, hlen⟩ := tbMerge_growing hs h
      obtain ⟨j, hj, -⟩ := hgrow.newest
      rw [tbMergeAll_succ fuel h, hu, Run.bind_go]
      exact ih hgrow (by omega) j hj (List.length_pos_of_mem hj)
    · obtain ⟨r, hr⟩ := List.length_eq_one_iff.mp (show s.q.length = 1 by omega)
      exact ⟨s, r, tbMergeAll_of_single _ hr, hs, hr⟩

/-! ### The tree of TB.BUILD -/

/-- What a build from the frequencies of `table` leaves (40_tree_builder.md R130 (a) to (d)). -/
structure Built (table s : State) : Prop where
  sums : Summed s.nodes
  leaves : ∀ c : Fin 257, leafCount s.nodes (BitVec.ofNat 9 c.val) = if 0 < table.freqOf c then 1 else 0
  last : s.root.toNat + 1 = s.nodeN
  weight : ∃ n, s.node? s.root = some n ∧ n.freq = ∑ c, table.freqOf c

/-- A new code for each entry is no change to what TB.BUILD leaves. -/
theorem Built.of_recoded {table s t : State} (hs : Built table s) (hroot : t.root = s.root)
    (h : t.nodes.map Node.uncoded = s.nodes.map Node.uncoded) : Built table t := by
  obtain ⟨n, hn, hsum⟩ := hs.weight
  obtain ⟨n', hn', -, hfreq⟩ := entry_of_recoded h hn
  have hlen : t.nodeN = s.nodeN := by simpa [State.nodeN] using congrArg List.length h
  exact ⟨hs.sums.of_recoded h, fun c => (leafCount_of_recoded h _).trans (hs.leaves c), by rw [hroot, hlen, hs.last],
    n', by rw [hroot]; exact hn', hfreq.trans hsum⟩

/-- ROOT is the element the merges leave (40_tree_builder.md R127). -/
theorem tbBuild_of_merges {s t : State} {r : Index} (h : tbMergeAll (tbInit s).q.length (tbInit s) = .go () t)
    (hr : t.q = [r]) : tbBuild s = .go () { t with root := r } := by
  rw [tbBuild, h, Run.bind_go]
  simp only [hr]

/-- TB.BUILD goes on, and leaves a tree (40_tree_builder.md R127, R130). -/
theorem tbBuild_built {s : State} (hs : s.nodes = []) : ∃ t, tbBuild s = .go () t ∧ Built s t := by
  obtain ⟨u, r, hu, hgrow, hr⟩ := tbMergeAll_growing (tbInit_growing hs) le_rfl
  obtain ⟨i, hi, hlast⟩ := hgrow.newest
  rw [hr, List.mem_singleton] at hi
  subst hi
  obtain ⟨n, hn⟩ := State.node?_of_lt (hgrow.valid i (hr ▸ List.mem_singleton_self i))
  have hw := hgrow.weight
  rw [hr, List.map_singleton, List.sum_singleton, State.freqAt_eq hn] at hw
  exact ⟨_, tbBuild_of_merges hu hr, hgrow.sums, hgrow.leaves, hlast, n, hn, hw⟩

/-! ### CA.ASSIGN -/

theorem Tree.height_lt_symbols (t : Tree) : t.height < t.symbols.length := by
  induction t with
  | leaf => simp [Tree.height, Tree.symbols]
  | node l r ihl ihr =>
    rw [Tree.height, Tree.symbols, List.length_append]
    omega

/-- A visit of a tree no deeper than its fuel goes on (41_code_assigner.md R141). -/
theorem caVisit_go {t : Tree} {fuel : Nat} {i : Index} {len val : Nat} {s : State} (ht : Holds s.nodes i t)
    (hf : t.height < fuel) : ∃ u, caVisit fuel i len val s = .go () u := by
  induction t generalizing fuel i len val s with
  | leaf =>
    obtain ⟨fuel, rfl⟩ := Nat.exists_eq_add_one_of_ne_zero (Nat.ne_of_gt hf)
    cases ht with
    | leaf hn hk => exact ⟨_, caVisit_leaf hn hk⟩
  | node a b iha ihb =>
    obtain ⟨fuel, rfl⟩ := Nat.exists_eq_add_one_of_ne_zero (Nat.ne_of_gt (Nat.zero_lt_of_lt hf))
    rw [Tree.height] at hf
    cases ht with
    | @node _ n l r _ _ hn hk ha hb =>
      have hset {k w} (hw : Holds s.nodes k w) : Holds (s.nodes.set i.toNat (n.placed len val)) k w := hw.set hn rfl
      obtain ⟨v, hv⟩ := iha (len := len + 1) (val := 2 * val) (fuel := fuel)
        (s := { s.setNode i (n.placed len val) with hdrBytes := s.hdrBytes + 1#10 }) (hset ha) (by omega)
      rw [caVisit_node hn hk, hv, Run.bind_go]
      exact ihb ((hset hb).of_caVisit hv) (by omega)

/-- CA.ASSIGN of the tree TB.BUILD leaves goes on: 257 leaves are no deeper than CODE_MAX (00_scope.md R6). -/
theorem caAssign_go {s v : State} (hs : s.nodes = []) (hv : tbBuild s = .go () v) : ∃ w, caAssign v = .go () w := by
  obtain ⟨a, ha, hperm⟩ := tbBuild_holds hs hv
  have hlen : a.symbols.length ≤ 257 := by
    rw [hperm.length_eq, State.usedAmong, List.length_map]
    exact (List.length_filter_le _ _).trans (by rw [List.length_finRange])
  have := a.height_lt_symbols
  exact caVisit_go ha (by rw [codeMax]; omega)

end Sys2Proof.Machine
end

section
/-! SUPPORT. ENC_BUILD on a non-empty input that the counters can hold, stage by stage, and the properties of the tree it builds
(40_tree_builder.md R130; 44_encoder_commands.md R191). -/

namespace Sys2Proof.Machine

/-! ### The stages of ENC_BUILD -/

/-- The end of ENC_BUILD writes STATUS, whichever verdict the gate gives, and drops what is transient
(44_encoder_commands.md R191). -/
theorem encGate_next (s : State) :
    ∃ t, (encGate s).outcome = .next t ∧ t = { s.dropLocals with status := t.status } := by
  unfold encGate
  split
  · exact ⟨_, rfl, rfl⟩
  · exact ⟨_, rfl, rfl⟩

/-- ENC_BUILD on a non-empty input that the counters can hold: `u` after the tally, `v` after TB.BUILD, `w` after CA.ASSIGN,
and `t` at the end. -/
structure Stages (s u v w t : State) : Prop where
  tallied : Tallied s u
  empty : u.nodes = []
  build : tbBuild u = .go () v
  built : Built u v
  assign : caAssign v = .go () w
  done : t = { w.dropLocals with status := t.status }

theorem encBuild_stages {s : State} (hs : Inv s) (hp : s.status.phase = .idle) (hne : s.input ≠ [])
    (hmax : s.input.length ≤ s.cfg.maxCount) : ∃ u v w t, Stages s u v w t ∧ exec .encBuild s = .next t := by
  obtain ⟨-, hempty, -⟩ := hs.idle_clean hp
  obtain ⟨u, hu, htally⟩ := encBuild_tallied hmax
  have hnodes : u.nodes = [] := htally.nodes.trans hempty
  obtain ⟨v, hv, hbuilt⟩ := tbBuild_built hnodes
  obtain ⟨w, hw⟩ := caAssign_go hnodes hv
  obtain ⟨t, ht, hframe⟩ := encGate_next (w.setPhase .treeBuilt)
  have hcount : u.inCount ≠ 0 := by
    rw [htally.inCount]
    exact fun h => hne (List.length_eq_zero_iff.mp h)
  refine ⟨u, v, w, t, ⟨htally, hnodes, hv, hbuilt, hw, hframe⟩, ?_⟩
  obtain ⟨-, e⟩ | ⟨hno, -⟩ := admitted_cases (s.status.phase = .idle) s encBuildRun
  · refine e.trans ?_
    rw [encBuildRun, hu, Run.bind_go, encTree, if_neg hcount, hv, Run.bind_go, hw, Run.bind_go, ht]
  · simp [hp] at hno

/-- What a build that ends in `t` has gone through. -/
theorem encBuild_stages_of_next {s t : State} (hs : Inv s) (hp : s.status.phase = .idle) (hne : s.input ≠ [])
    (hmax : s.input.length ≤ s.cfg.maxCount) (h : exec .encBuild s = .next t) : ∃ u v w, Stages s u v w t := by
  obtain ⟨u, v, w, t', hst, e⟩ := encBuild_stages hs hp hne hmax
  cases e.symm.trans h
  exact ⟨u, v, w, hst⟩

section Ends

variable {s u v w t : State} (h : Stages s u v w t)

include h

theorem Stages.nodes : t.nodes = w.nodes := by rw [h.done]; rfl

theorem Stages.root : t.root = w.root := by rw [h.done]; rfl

/-- After TB.BUILD only the codes, the two totals, STATUS and what is transient are written. -/
theorem Stages.tail_frame : t = { v with
    nodes := w.nodes, hdrBytes := w.hdrBytes, payloadBits := w.payloadBits, q := [], pend := [], hdrStart := 0
    status := t.status } := by
  obtain ⟨hframe, -⟩ := caVisit_frame h.assign
  rw [h.done, hframe]
  rfl

theorem Stages.freqOf (c : Fin 257) : t.freqOf c = u.freqOf c := by
  rw [h.tail_frame, tbBuild_frame h.build]
  rfl

theorem Stages.inCount : t.inCount = s.input.length := by
  rw [← h.tallied.inCount, h.tail_frame, tbBuild_frame h.build]

/-- From TB.BUILD to the end nothing but the codes of the entries changes. -/
theorem Stages.recoded : t.nodes.map Node.uncoded = v.nodes.map Node.uncoded := by
  obtain ⟨-, hmap⟩ := caVisit_frame h.assign
  rw [h.nodes]
  exact hmap

/-- ROOT at the end is what TB.BUILD leaves there. -/
theorem Stages.root_build : t.root = v.root := by rw [h.tail_frame]

/-- The tree at the end is the one TB.BUILD leaves. -/
theorem Stages.built_end : Built u t := h.built.of_recoded h.root_build h.recoded

end Ends

/-! ### The table alone decides the tree -/

/-- Two runs that go on alike, to related states, or stop with the same fault. -/
inductive Run.Related {α : Type} (R : State → State → Prop) : Run α → Run α → Prop where
  | go (a : α) {s s' : State} (h : R s s') : Related R (.go a s) (.go a s')
  | fault (f : Fault) : Related R (.fault f) (.fault f)

theorem Run.Related.bind {α β : Type} {R R' : State → State → Prop} {r r' : Run α} {k k' : α → State → Run β}
    (hr : r.Related R r') (hk : ∀ a s s', R s s' → (k a s).Related R' (k' a s')) : (r.bind k).Related R' (r'.bind k') := by
  cases hr with
  | go a h => exact hk a _ _ h
  | fault f => exact .fault f

theorem Run.Related.of_go {α : Type} {R : State → State → Prop} {a a' : α} {s s' : State}
    (h : (Run.go a s).Related R (.go a' s')) : R s s' := by
  cases h with
  | go _ h => exact h

/-- What TB.BUILD reads is the same in both states. -/
structure SameTable (s s' : State) : Prop where
  freqOf : ∀ c, s.freqOf c = s'.freqOf c
  nodes : s.nodes = s'.nodes
  leafOf : s.leafOf = s'.leafOf
  q : s.q = s'.q

theorem SameTable.nextIndex {s s' : State} (h : SameTable s s') : s.nextIndex = s'.nextIndex := by
  rw [State.nextIndex, State.nodeN, h.nodes]
  rfl

theorem SameTable.least {s s' : State} (h : SameTable s s') : s.least = s'.least := by
  have hfreq : s.freqAt = s'.freqAt := by
    funext i
    rw [State.freqAt, State.node?, h.nodes]
    rfl
  have hbefore : s.before = s'.before := by
    funext i j
    rw [State.before, hfreq]
    rfl
  funext i others
  rw [State.least, hbefore]
  rfl

theorem tbLeaf_sameTable {s s' : State} (h : SameTable s s') (c : Fin 257) : SameTable (tbLeaf c s) (tbLeaf c s') := by
  unfold tbLeaf
  rw [← h.freqOf c]
  split
  · exact ⟨h.freqOf, by simp [h.nodes], by simp [h.leafOf, h.nextIndex], by simp [h.q, h.nextIndex]⟩
  · exact ⟨h.freqOf, h.nodes, by simp [h.leafOf], h.q⟩

theorem tbInit_sameTable {s s' : State} (h : SameTable s s') : SameTable (tbInit s) (tbInit s') := by
  have hfold (l : List (Fin 257)) {u u' : State} (hu : SameTable u u') :
      SameTable (l.foldl (fun t c => tbLeaf c t) u) (l.foldl (fun t c => tbLeaf c t) u') := by
    induction l generalizing u u' with
    | nil => exact hu
    | cons c l ih => exact ih (tbLeaf_sameTable hu c)
  exact hfold _ ⟨h.freqOf, h.nodes, h.leafOf, rfl⟩

theorem readNode_related {s s' : State} {R : State → State → Prop} (h : R s s') (hn : s.nodes = s'.nodes) (i : Index) :
    (readNode i s).Related R (readNode i s') := by
  unfold readNode State.node?
  rw [hn]
  split
  · exact .go _ h
  · exact .fault _

theorem removeMin_related {s s' : State} (h : SameTable s s') : (removeMin s).Related SameTable (removeMin s') := by
  unfold removeMin
  rw [h.q, h.least]
  split
  · exact .fault _
  · exact .go _ ⟨h.freqOf, h.nodes, h.leafOf, rfl⟩

theorem tbMerge_related {s s' : State} (h : SameTable s s') : (tbMerge s).Related SameTable (tbMerge s') :=
  (removeMin_related h).bind fun a _ _ h1 =>
  (removeMin_related h1).bind fun b _ _ h2 =>
  (readNode_related h2 h2.nodes a).bind fun _ _ _ h3 =>
  (readNode_related h3 h3.nodes b).bind fun _ _ _ h4 =>
  .go () ⟨h4.freqOf, by simp [h4.nodes], h4.leafOf, by simp [h4.q, h4.nextIndex]⟩

theorem tbMergeAll_related (n : Nat) {s s' : State} (h : SameTable s s') :
    (tbMergeAll n s).Related SameTable (tbMergeAll n s') := by
  induction n generalizing s s' with
  | zero => exact .go () h
  | succ n ih =>
    unfold tbMergeAll
    rw [h.q]
    split
    · exact (tbMerge_related h).bind fun _ _ _ hu => ih hu
    · exact .go () h

/-- The same table gives the same arena, root and LEAF_OF. -/
theorem tbBuild_related {s s' : State} (h : SameTable s s') :
    (tbBuild s).Related (fun t t' => t.nodes = t'.nodes ∧ t.root = t'.root ∧ t.leafOf = t'.leafOf) (tbBuild s') := by
  have hinit := tbInit_sameTable h
  unfold tbBuild
  rw [hinit.q]
  refine (tbMergeAll_related _ hinit).bind fun _ u u' hu => ?_
  rw [hu.q]
  split
  · exact .go () ⟨hu.nodes, rfl, hu.leafOf⟩
  · exact .fault _

theorem caVisit_related (fuel : Nat) (i : Index) (len val : Nat) {s s' : State} (h : s.nodes = s'.nodes) :
    (caVisit fuel i len val s).Related (fun t t' => t.nodes = t'.nodes) (caVisit fuel i len val s') := by
  induction fuel generalizing i len val s s' with
  | zero => exact .fault _
  | succ fuel ih =>
    unfold caVisit
    refine (readNode_related (R := fun t t' => t.nodes = t'.nodes) h h i).bind fun n u u' hu => ?_
    have hset (m : Node) : (u.setNode i m).nodes = (u'.setNode i m).nodes := congrArg (·.set i.toNat m) hu
    split
    · exact .go () (hset _)
    · exact .bind (ih _ _ _ (by exact hset _)) fun _ _ _ hv => ih _ _ _ hv
    · exact .fault _

theorem caAssign_related {s s' : State} (h : s.nodes = s'.nodes) (hroot : s.root = s'.root) :
    (caAssign s).Related (fun t t' => t.nodes = t'.nodes) (caAssign s') := by
  rw [caAssign, caAssign, hroot]
  exact caVisit_related _ _ _ _ h

/-- Two builds from the same table end with the same arena, root and LEAF_OF. -/
theorem Stages.same_end {s u v w t s' u' v' w' t' : State} (h : Stages s u v w t) (h' : Stages s' u' v' w' t')
    (hu : SameTable u u') : t.nodes = t'.nodes ∧ t.root = t'.root ∧ t.leafOf = t'.leafOf := by
  have hbuild := tbBuild_related hu
  rw [h.build, h'.build] at hbuild
  obtain ⟨hv, hroot, hleaf⟩ := hbuild.of_go
  have hassign := caAssign_related hv hroot
  rw [h.assign, h'.assign] at hassign
  rw [h.tail_frame, h'.tail_frame]
  exact ⟨hassign.of_go, hroot, hleaf⟩

/-- Inputs of the same bytes leave the same table. -/
theorem Stages.sameTable {s u v w t s' u' v' w' t' : State} (h : Stages s u v w t) (h' : Stages s' u' v' w' t')
    (hs : s.clean) (hs' : s'.clean) (hq : s.q = []) (hq' : s'.q = []) (hperm : s'.input.Perm s.input) : SameTable u' u := by
  obtain ⟨-, -, hleaf, -⟩ := hs
  obtain ⟨-, -, hleaf', -⟩ := hs'
  refine ⟨fun c => ?_, h'.empty.trans h.empty.symm, ?_, ?_⟩
  · obtain ⟨b, rfl⟩ | rfl := eq_byteSymbol_or_sentinel c
    · rw [h.tallied.freqOf, h'.tallied.freqOf, hperm.count_eq]
    · rfl
  · rw [h.tallied.frame, h'.tallied.frame]
    exact hleaf'.trans hleaf.symm
  · rw [h.tallied.frame, h'.tallied.frame]
    exact hq'.trans hq.symm

/-- Settles O33: (a) to (d) from what every merge keeps, (e) since the builder reads the table and nothing else. -/
theorem builtTreeProperties : Obligations.BuiltTreeProperties := by
  intro s t hs hp hne hmax h
  obtain ⟨u, v, w, hst⟩ := encBuild_stages_of_next hs hp hne hmax h
  obtain ⟨hsums, hleaves, hlast, n, hn, hweight⟩ := hst.built_end
  refine ⟨?_, ⟨n, hn, ?_⟩, fun c => ?_, ⟨?_, hlast⟩, ?_⟩
  · intro m hm hleaf
    obtain ⟨k, hk⟩ := List.mem_iff_getElem?.mp hm
    obtain ⟨l, r, nl, nr, hkind, -, -, hnl, hnr, hsum⟩ := hsums k m hk hleaf
    exact ⟨l, r, nl, nr, hkind, hnl, hnr, hsum⟩
  · rw [hweight, hst.tallied.sum_freqOf, hst.inCount]
  · rw [hst.freqOf, ← hleaves c, leafCount, List.countP_eq_length_filter]
  · intro k m l r hm hkind
    obtain ⟨l', r', _, _, hkind', hl, hr, -⟩ := hsums k m hm (isLeaf_eq_false_of_kind hkind)
    cases hkind.symm.trans hkind'
    exact ⟨hl, hr⟩
  · intro s' t' hs' hp' hperm hmax' h'
    have hne' : s'.input ≠ [] := fun e => hne (List.perm_nil.mp (e ▸ hperm.symm))
    obtain ⟨u', v', w', hst'⟩ := encBuild_stages_of_next hs' hp' hne' hmax' h'
    obtain ⟨hq, -⟩ := hs.locals
    obtain ⟨hq', -⟩ := hs'.locals
    exact hst'.same_end hst (hst.sameTable hst' (hs.idle_clean hp) (hs'.idle_clean hp') hq hq' hperm)

end Sys2Proof.Machine
end

section
/-! SUPPORT. The root of a built tree, and the tree of an input with one distinct byte value (40_tree_builder.md R128). -/

namespace Sys2Proof.Machine

/-! ### The root is Internal -/

/-- The tree at the end is coded by places, and its leaves are the symbols that occur. -/
theorem Stages.coded {s u v w t : State} (h : Stages s u v w t) :
    ∃ a, Coded t.nodes t.root a 0 0 ∧ a.symbols.Perm (u.usedAmong (List.finRange 257)) := by
  obtain ⟨a, ha, hperm⟩ := tbBuild_holds h.empty h.build
  obtain ⟨hc, -⟩ := caAssign_coded ha (hperm.nodup_iff.mpr (u.usedAmong_nodup (List.nodup_finRange 257))) h.assign
  exact ⟨a, by rwa [h.nodes, h.root], hperm⟩

/-- A tree with two different symbols has an Internal root. -/
theorem Holds.root_internal {nodes : List Node} {i : Index} {t : Tree} (h : Holds nodes i t) {a b : Symbol}
    (ha : a ∈ t.symbols) (hb : b ∈ t.symbols) (hab : a ≠ b) :
    ∃ n l r, nodes[i.toNat]? = some n ∧ n.kind = .internal (some l) (some r) := by
  cases h with
  | leaf => exact absurd ((List.mem_singleton.mp ha).trans (List.mem_singleton.mp hb).symm) hab
  | node hn hk => exact ⟨_, _, _, hn, hk⟩

theorem byteSymbol_ne_sentinel (b : Byte) : byteSymbol b ≠ sentinelSymbol := fun e =>
  Nat.ne_of_lt b.isLt (congrArg Fin.val e)

/-- A byte of the input and the sentinel both have a leaf. -/
theorem Stages.root_internal {s u v w t : State} (h : Stages s u v w t) (hne : s.input ≠ []) :
    ∃ n l r, t.node? t.root = some n ∧ n.kind = .internal (some l) (some r) := by
  obtain ⟨a, ha, hperm⟩ := h.coded
  have hmem (c : Fin 257) (hc : 0 < u.freqOf c) : BitVec.ofNat 9 c.val ∈ a.symbols :=
    hperm.mem_iff.mpr (List.mem_map_of_mem (State.mem_present.mpr ⟨List.mem_finRange c, hc⟩))
  obtain ⟨b, hb⟩ := List.exists_mem_of_ne_nil _ hne
  have hbyte := hmem (byteSymbol b) (by rw [h.tallied.freqOf]; exact List.count_pos_iff.mpr hb)
  exact ha.holds.root_internal hbyte (hmem sentinelSymbol Nat.one_pos) fun e =>
    byteSymbol_ne_sentinel b (ofNat_symbol_injective (congrArg NodeKind.leaf e))

/-! ### Two leaves -/

/-- The code of the entry at a place. -/
theorem Coded.code {nodes : List Node} {i : Index} {t : Tree} {len val : Nat} (h : Coded nodes i t len val) {n : Node}
    (hn : nodes[i.toNat]? = some n) : n.codeLen = BitVec.ofNat 9 len ∧ n.codeVal = BitVec.ofNat 256 val := by
  cases h with
  | leaf hn' => cases hn.symm.trans hn'; exact ⟨rfl, rfl⟩
  | node hn' => cases hn.symm.trans hn'; exact ⟨rfl, rfl⟩

theorem Coded.children {nodes : List Node} {i l r : Index} {t : Tree} {len val : Nat} (h : Coded nodes i t len val) {n : Node}
    (hn : nodes[i.toNat]? = some n) (hk : n.kind = .internal (some l) (some r)) :
    ∃ a b, Coded nodes l a (len + 1) (2 * val) ∧ Coded nodes r b (len + 1) (2 * val + 1) := by
  cases h with
  | leaf hn' => cases hn.symm.trans hn'; cases hk
  | node hn' ha hb => cases hn.symm.trans hn'; cases hk; exact ⟨_, _, ha, hb⟩

/-- One distinct byte value and the sentinel are the symbols that occur. -/
theorem present_of_one_byte {u : State} {x : Byte} (hx : 0 < u.freqOf (byteSymbol x))
    (hother : ∀ b, b ≠ x → u.freqOf (byteSymbol b) = 0) :
    u.present (List.finRange 257) = [byteSymbol x, sentinelSymbol] := by
  have hfilter : (List.finRange 256).filter (fun b => decide (0 < u.freqOf b.castSucc)) =
      (List.finRange 256).filter (fun b => b == x.toFin) := by
    refine List.filter_congr fun b _ => ?_
    by_cases hb : b = x.toFin
    · have hpos : 0 < u.freqOf x.toFin.castSucc := hx
      simp [hb, hpos]
    · have hzero : u.freqOf b.castSucc = 0 := hother (BitVec.ofFin b) fun e => hb (congrArg BitVec.toFin e)
      simp [hb, hzero]
  rw [u.present_all, hfilter, List.filter_beq, List.count_eq_one_of_mem (List.nodup_finRange 256) (List.mem_finRange _)]
  rfl

/-- TB.BUILD of two leaves is one merge, the lesser key on the left. -/
theorem tbBuild_two_leaves {s : State} (hN : (tbInit s).nodeN = 2) (hq : (tbInit s).q = [0#10, 1#10]) :
    ∃ a b, (a = 0#10 ∧ b = 1#10 ∨ a = 1#10 ∧ b = 0#10) ∧ (tbInit s).keyLe a b ∧
      tbBuild s = .go () { (tbInit s).merged a b with root := 2#10 } := by
  obtain ⟨a, b, ha, hb, hmin, -, hmerge⟩ := tbMerge_least (s := tbInit s) (by rw [hq]; decide) (by
    rw [hq, show (tbInit s).nodes.length = 2 from hN]; decide)
  have hab : a = 0#10 ∧ b = 1#10 ∨ a = 1#10 ∧ b = 0#10 := by
    rw [hq] at ha hb
    obtain rfl | ha := List.mem_cons.mp ha
    · exact .inl ⟨rfl, by simpa using hb⟩
    · obtain rfl := List.mem_singleton.mp ha
      exact .inr ⟨rfl, by simpa using hb⟩
  have hlast : ((tbInit s).merged a b).q = [2#10] := by
    rw [State.merged_q, hq, State.nextIndex, hN]
    obtain ⟨rfl, rfl⟩ | ⟨rfl, rfl⟩ := hab <;> decide
  refine ⟨a, b, hab, hmin b (List.mem_of_mem_erase hb), ?_⟩
  refine tbBuild_of_merges ?_ hlast
  rw [hq, List.length_cons, tbMergeAll_succ _ (by rw [hq]; decide), hmerge, Run.bind_go, tbMergeAll_of_single _ hlast]

/-- The arena of an input of one distinct byte value, before the codes (40_tree_builder.md R128). -/
theorem tbBuild_one_byte {u v : State} {x : Byte} {n : Nat} (hu : u.nodes = []) (hx : u.freqOf (byteSymbol x) = n + 1)
    (hother : ∀ b, b ≠ x → u.freqOf (byteSymbol b) = 0) (hv : tbBuild u = .go () v) :
    v.root = 2#10 ∧ v.nodes.map Node.uncoded = [(.leaf (x.setWidth 9), n + 1), (.leaf 256#9, 1),
      (if n = 0 then .internal (some 0#10) (some 1#10) else .internal (some 1#10) (some 0#10), n + 2)] := by
  have hpresent := present_of_one_byte (by omega) hother
  have hnodes : (tbInit u).nodes = [newLeaf (byteSymbol x) (n + 1), newLeaf sentinelSymbol 1] := by
    rw [tbInit_nodes hu, hpresent, List.map_cons, hx]
    rfl
  have hq : (tbInit u).q = [0#10, 1#10] := by
    rw [tbInit_q hu, hpresent]
    rfl
  have h0 : (tbInit u).freqAt 0#10 = n + 1 :=
    State.freqAt_eq (n := newLeaf (byteSymbol x) (n + 1)) (by rw [State.node?, hnodes]; rfl)
  have h1 : (tbInit u).freqAt 1#10 = 1 :=
    State.freqAt_eq (n := newLeaf sentinelSymbol 1) (by rw [State.node?, hnodes]; rfl)
  obtain ⟨a, b, hab, hle, hbuild⟩ := tbBuild_two_leaves (by rw [State.nodeN, hnodes]; rfl) hq
  obtain ⟨-, rfl⟩ := Run.go.inj (hbuild.symm.trans hv)
  refine ⟨rfl, ?_⟩
  have huncoded : ((tbInit u).merged a b).nodes.map Node.uncoded =
      [(.leaf (x.setWidth 9), n + 1), (.leaf 256#9, 1),
        (.internal (some a) (some b), (tbInit u).freqAt a + (tbInit u).freqAt b)] := by
    rw [State.merged, State.alloc_nodes, hnodes, ← BitVec.ofNat_toNat]
    rfl
  refine huncoded.trans ?_
  obtain ⟨rfl, rfl⟩ | ⟨rfl, rfl⟩ := hab <;> rw [State.keyLe, h0, h1] at hle
  · obtain rfl : n = 0 := by omega
    rw [h0, h1, if_pos rfl]
  · have hn : n ≠ 0 := by
      rintro rfl
      simp at hle
    rw [h0, h1, if_neg hn, Nat.add_comm 1]

/-- The codes of a coded arena of two leaves below the root: 0 for the left one, 1 for the right one. -/
theorem two_leaves_codes {nodes : List Node} {a : Tree} {k0 k1 : NodeKind} {f0 f1 f2 : Nat} {first : Prop} [Decidable first]
    (hc : Coded nodes 2#10 a 0 0) (hn : nodes.map Node.uncoded = [(k0, f0), (k1, f1),
      (if first then .internal (some 0#10) (some 1#10) else .internal (some 1#10) (some 0#10), f2)]) :
    nodes = if first then
        [⟨k0, f0, 1#9, 0#256⟩, ⟨k1, f1, 1#9, 1#256⟩, ⟨.internal (some 0#10) (some 1#10), f2, 0#9, 0#256⟩]
      else [⟨k0, f0, 1#9, 1#256⟩, ⟨k1, f1, 1#9, 0#256⟩, ⟨.internal (some 1#10) (some 0#10), f2, 0#9, 0#256⟩] := by
  obtain ⟨⟨_, _, _, _⟩, ⟨_, _, _, _⟩, ⟨_, _, _, _⟩, rfl⟩ := List.length_eq_three.mp
    ((List.length_map _).symm.trans (congrArg List.length hn))
  simp only [List.map_cons, List.map_nil, Node.uncoded, List.cons.injEq, Prod.mk.injEq, and_true] at hn
  obtain ⟨⟨rfl, rfl⟩, ⟨rfl, rfl⟩, rfl, rfl⟩ := hn
  obtain ⟨rfl, rfl⟩ := hc.code rfl
  by_cases h : first
  · obtain ⟨_, _, hl, hr⟩ := hc.children rfl (if_pos h)
    obtain ⟨rfl, rfl⟩ := hl.code rfl
    obtain ⟨rfl, rfl⟩ := hr.code rfl
    rw [if_pos h, if_pos h]
  · obtain ⟨_, _, hl, hr⟩ := hc.children rfl (if_neg h)
    obtain ⟨rfl, rfl⟩ := hl.code rfl
    obtain ⟨rfl, rfl⟩ := hr.code rfl
    rw [if_neg h, if_neg h]

/-- Settles O34: one merge, whose order is the order of the two keys; a root over two symbols is Internal. -/
theorem oneByteValueGivesTwoLeaves : Obligations.OneByteValueGivesTwoLeaves := by
  refine ⟨fun s x n hs hp hin hmax => ?_, fun s t hs hp hne hmax h => ?_⟩
  · have hne : s.input ≠ [] := by simp [hin]
    obtain ⟨u, v, w, t, hst, h⟩ := encBuild_stages hs hp hne (by rw [hin, List.length_replicate]; exact hmax)
    obtain ⟨hroot, hnodes⟩ := tbBuild_one_byte (x := x) (n := n) hst.empty
      (by rw [hst.tallied.freqOf, hin, List.count_replicate_self])
      (fun b hb => by rw [hst.tallied.freqOf, hin, List.count_replicate]; simp [Ne.symm hb]) hst.build
    have htroot := hst.root_build.trans hroot
    obtain ⟨a, ha, -⟩ := hst.coded
    have hcodes := two_leaves_codes (first := n = 0) (htroot ▸ ha) (by rw [hst.recoded, hnodes])
    refine ⟨t, h, htroot, hcodes.trans ?_⟩
    split
    next hn => rw [hn]
    · rfl
  · obtain ⟨u, v, w, hst⟩ := encBuild_stages_of_next hs hp hne hmax h
    exact hst.root_internal hne

end Sys2Proof.Machine
end

section
/-! SUPPORT. The places of a tree's nodes as bit strings: no leaf's path begins another's, and the leaves' paths meet the Kraft
equality (10_state.md R25; 41_code_assigner.md R145). -/

namespace Sys2Proof.Machine

/-- A strictly binary tree has one Internal node fewer than leaves (10_state.md R24). -/
theorem Tree.size_eq (t : Tree) : t.size + 1 = 2 * t.symbols.length := by
  induction t with
  | leaf => rfl
  | node l r ihl ihr =>
    rw [Tree.size, Tree.symbols, List.length_append]
    omega

/-- Neither string begins the other. -/
def Incomparable (p q : List Bool) : Prop := ¬ p <+: q ∧ ¬ q <+: p

theorem Incomparable.symm {p q : List Bool} (h : Incomparable p q) : Incomparable q p := And.symm h

theorem Incomparable.cons {p q : List Bool} (b : Bool) (h : Incomparable p q) : Incomparable (b :: p) (b :: q) := by
  simpa [Incomparable] using h

theorem incomparable_of_head_ne {b c : Bool} (h : b ≠ c) (p q : List Bool) : Incomparable (b :: p) (c :: q) := by
  simp [Incomparable, h, h.symm]

/-- The paths to the leaves, left to right. -/
def Tree.leafPaths (t : Tree) : List (List Bool) := t.codes.map Prod.snd

@[simp] theorem Tree.leafPaths_leaf (symbol : Symbol) : (Tree.leaf symbol).leafPaths = [[]] := rfl

@[simp] theorem Tree.leafPaths_node (l r : Tree) :
    (Tree.node l r).leafPaths = l.leafPaths.map (false :: ·) ++ r.leafPaths.map (true :: ·) := by
  simp [Tree.leafPaths, Tree.codes, Function.comp_def]

/-- No leaf's path begins another's. -/
theorem Tree.leafPaths_incomparable (t : Tree) : t.leafPaths.Pairwise Incomparable := by
  induction t with
  | leaf => exact List.pairwise_singleton _ _
  | node l r ihl ihr =>
    rw [Tree.leafPaths_node, List.pairwise_append, List.pairwise_map, List.pairwise_map]
    refine ⟨ihl.imp (.cons false), ihr.imp (.cons true), fun p hp q hq => ?_⟩
    obtain ⟨p, -, rfl⟩ := List.mem_map.mp hp
    obtain ⟨q, -, rfl⟩ := List.mem_map.mp hq
    exact incomparable_of_head_ne Bool.false_ne_true p q

/-- Below an Internal root every path takes a step. -/
theorem Tree.ne_nil_of_mem_leafPaths_node {l r : Tree} {p : List Bool} (hp : p ∈ (Tree.node l r).leafPaths) : p ≠ [] := by
  rw [Tree.leafPaths_node, List.mem_append, List.mem_map, List.mem_map] at hp
  obtain ⟨q, -, rfl⟩ | ⟨q, -, rfl⟩ := hp <;> exact List.cons_ne_nil _ q

/-- The Kraft equality, both sides times 2^n: each half of the tree takes half of the whole. -/
theorem Tree.kraft (t : Tree) {n : Nat} (h : t.height ≤ n) : (t.leafPaths.map fun p => 2 ^ (n - p.length)).sum = 2 ^ n := by
  induction t generalizing n with
  | leaf => simp
  | node l r ihl ihr =>
    rw [Tree.height] at h
    obtain ⟨n, rfl⟩ := Nat.exists_eq_add_one_of_ne_zero (Nat.ne_of_gt (Nat.zero_lt_of_lt h))
    have hhalf (t : Tree) (b : Bool) :
        ((t.leafPaths.map (b :: ·)).map fun p => 2 ^ (n + 1 - p.length)) = t.leafPaths.map fun p => 2 ^ (n - p.length) := by
      simp [Function.comp_def]
    rw [Tree.leafPaths_node, List.map_append, List.sum_append, hhalf, hhalf, ihl (by omega), ihr (by omega), Nat.pow_succ,
      Nat.mul_two]

/-! ### All nodes -/

/-- Every node of the tree as its path from the root, with whether it is a leaf. -/
def Tree.places : Tree → List (Bool × List Bool)
  | .leaf _ => [(true, [])]
  | .node l r => (false, []) :: (l.places.map (Prod.map id (false :: ·)) ++ r.places.map (Prod.map id (true :: ·)))

theorem Tree.places_length (t : Tree) : t.places.length = t.size := by
  induction t with
  | leaf => rfl
  | node l r ihl ihr => simp [Tree.places, Tree.size, ihl, ihr]

/-- The leaves among the places. -/
theorem Tree.places_leaves (t : Tree) : (t.places.filter Prod.fst).map Prod.snd = t.leafPaths := by
  induction t with
  | leaf => rfl
  | node l r ihl ihr => simp [Tree.places, List.filter_map, Function.comp_def, ← ihl, ← ihr]

theorem Tree.places_nodup (t : Tree) : t.places.Nodup := by
  induction t with
  | leaf => exact List.nodup_singleton _
  | node l r ihl ihr =>
    have hinj (b : Bool) : Function.Injective (Prod.map (id : Bool → Bool) (b :: ·)) :=
      Function.injective_id.prodMap List.cons_injective
    refine List.nodup_cons.mpr ⟨by simp, List.nodup_append'.mpr ⟨ihl.map (hinj false), ihr.map (hinj true), ?_⟩⟩
    intro p hl hr
    obtain ⟨q, -, rfl⟩ := List.mem_map.mp hl
    obtain ⟨q', -, e⟩ := List.mem_map.mp hr
    exact Bool.noConfusion (List.head_eq_of_cons_eq (congrArg Prod.snd e))

/-- A place of the tree is followed to the node that stands there. -/
theorem Holds.follow_of_mem_places {nodes : List Node} {i : Index} {t : Tree} (h : Holds nodes i t) {b : Bool}
    {path : List Bool} (hp : (b, path) ∈ t.places) :
    ∃ j n, follow nodes i path = some j ∧ nodes[j.toNat]? = some n ∧ n.isLeaf = b := by
  induction h generalizing path with
  | leaf hn hk =>
    cases List.mem_singleton.mp hp
    exact ⟨_, _, if_pos (List.getElem?_eq_some_iff.mp hn).1, hn, by rw [Node.isLeaf, hk]⟩
  | node hn hk _ _ iha ihb =>
    rw [Tree.places, List.mem_cons, List.mem_append, List.mem_map, List.mem_map] at hp
    obtain hp | ⟨⟨b', path⟩, hp, e⟩ | ⟨⟨b', path⟩, hp, e⟩ := hp
    · cases hp
      exact ⟨_, _, if_pos (List.getElem?_eq_some_iff.mp hn).1, hn, isLeaf_eq_false_of_kind hk⟩
    · cases e
      obtain ⟨j, n, hf, hj⟩ := iha hp
      exact ⟨j, n, by simpa [follow, hn, hk] using hf, hj⟩
    · cases e
      obtain ⟨j, n, hf, hj⟩ := ihb hp
      exact ⟨j, n, by simpa [follow, hn, hk] using hf, hj⟩

/-- An entry's own account of its place. -/
def Node.place (n : Node) : Bool × List Bool := (n.isLeaf, n.codeBits)

/-- The codes of an arena that a coded tree fills are the tree's places, each once: the places differ, each is some entry's,
and there are as many entries as places. -/
theorem Coded.places_perm {nodes : List Node} {i : Index} {t : Tree} (h : Coded nodes i t 0 0) (hh : t.height ≤ codeMax)
    (hsize : t.size = nodes.length) : t.places.Perm (nodes.map Node.place) := by
  have hsub : t.places ⊆ nodes.map Node.place := by
    rintro ⟨b, path⟩ hp
    obtain ⟨j, n, hf, hn, hleaf⟩ := h.holds.follow_of_mem_places hp
    obtain ⟨n', hn', -, -, hbits⟩ := h.codes_are_paths hh hf
    cases hn.symm.trans hn'
    exact List.mem_map.mpr ⟨n, List.mem_of_getElem? hn, Prod.ext hleaf hbits⟩
  exact (List.subperm_of_subset t.places_nodup hsub).perm_of_length_le (by rw [List.length_map, t.places_length, hsize])

/-- The leaves' codes of an arena that a coded tree fills are the paths to the tree's leaves. -/
theorem Coded.leaf_codes_perm {nodes : List Node} {i : Index} {t : Tree} (h : Coded nodes i t 0 0) (hh : t.height ≤ codeMax)
    (hsize : t.size = nodes.length) : t.leafPaths.Perm ((nodes.filter Node.isLeaf).map Node.codeBits) := by
  have key := ((h.places_perm hh hsize).filter Prod.fst).map Prod.snd
  rwa [t.places_leaves, List.filter_map, List.map_map] at key

end Sys2Proof.Machine
end

section
/-! SUPPORT. A build that ends OK fills the arena: every entry is a node of the tree at ROOT, and the root is Internal
(40_tree_builder.md R127, R128; 42_tree_codec.md R153, R156). -/

namespace Sys2Proof.Machine

/-- The whole arena is one coded tree at ROOT with an Internal root, which fits it. -/
def FullTree (t : State) : Prop :=
  ∃ l r, Coded t.nodes t.root (.node l r) 0 0 ∧ (Tree.node l r).size = t.nodeN ∧ t.nodeN ≤ nodeCap

theorem OneCodedTree.fullTree {t : State} (h : OneCodedTree t) {n : Node} {l r : Option Index}
    (hn : t.node? t.root = some n) (hk : n.kind = .internal l r) : FullTree t := by
  obtain ⟨a, ha, hsize⟩ := h
  cases a with
  | leaf symbol =>
    cases ha with
    | leaf hn' => cases hn.symm.trans hn'; cases hk
  | node a b => exact ⟨a, b, ha, hsize⟩

/-! ### DEC_BUILD -/

/-- Where TC.CHECK goes on the root is Internal (42_tree_codec.md R156). -/
theorem tcCheck_root_internal {s t : State} (h : tcCheck s = .go () t) :
    ∃ n l r, t.node? t.root = some n ∧ n.kind = .internal l r := by
  cases tcCheck_eq_go h
  unfold tcCheck at h
  split at h
  · obtain ⟨n, hn, h⟩ := readNode_bind_eq_go h
    split at h
    · cases h
    next l r hk => exact ⟨n, l, r, hn, hk⟩
  · cases h

theorem decBuildRun_fullTree {s t : State} (hs : s.nodes = []) (h : decBuildRun s = .go () t) : FullTree t := by
  have htree := decBuildRun_oneCodedTree hs h
  obtain ⟨_, u, -, h⟩ := Run.bind_eq_go h
  obtain ⟨_, v, hv, h⟩ := Run.bind_eq_go h
  cases h
  obtain ⟨n, l, r, hn, hk⟩ := tcCheck_root_internal hv
  exact htree.fullTree hn hk

/-! ### ENC_BUILD -/

/-- The merges trade two elements of Q for one and one more entry, so that entries and elements together stay as many. -/
theorem tbMergeAll_count {fuel : Nat} {s t : State} (h : tbMergeAll fuel s = .go () t) :
    t.nodeN + t.q.length = s.nodeN + s.q.length := by
  induction fuel generalizing s with
  | zero => cases h; rfl
  | succ fuel ih =>
    unfold tbMergeAll at h
    split at h
    · obtain ⟨_, u, hu, h⟩ := Run.bind_eq_go h
      obtain ⟨a, b, freq, ha, hb, hnodes, hqueue⟩ := tbMerge_eq_go hu
      have hposa := List.length_pos_of_mem ha
      have hposb := List.length_pos_of_mem hb
      have hlena := List.length_erase_of_mem ha
      have hlenb := List.length_erase_of_mem hb
      rw [ih h, State.nodeN, State.nodeN, hnodes, hqueue, List.length_append, List.length_append, List.length_singleton,
        List.length_singleton]
      omega
    · cases h; rfl

/-- TB.BUILD of n leaves makes n − 1 merges (40_tree_builder.md R127). -/
theorem tbBuild_nodeN {s t : State} (hs : s.nodes = []) (h : tbBuild s = .go () t) :
    t.nodeN + 1 = 2 * (s.usedAmong (List.finRange 257)).length ∧ t.nodeN ≤ nodeCap := by
  unfold tbBuild at h
  obtain ⟨_, u, hu, h⟩ := Run.bind_eq_go h
  obtain ⟨-, hq, hle⟩ := tbInit_forest hs
  have hcount := tbMergeAll_count hu
  have hused : (tbInit s).nodeN = (s.usedAmong (List.finRange 257)).length := by
    rw [tbInit_nodeN hs, State.usedAmong, List.length_map, State.present]
  split at h
  next r hr =>
    cases h
    rw [hr, List.length_singleton] at hcount
    change u.nodeN + 1 = _ ∧ u.nodeN ≤ nodeCap
    rw [nodeCap]
    omega
  next => cases h

theorem Stages.fullTree {s u v w t : State} (h : Stages s u v w t) (hne : s.input ≠ []) : FullTree t := by
  obtain ⟨a, ha, hperm⟩ := h.coded
  obtain ⟨n, l, r, hn, hk⟩ := h.root_internal hne
  obtain ⟨hcount, hcap⟩ := tbBuild_nodeN h.empty h.build
  have hlen : t.nodeN = v.nodeN := by simpa [State.nodeN] using congrArg List.length h.recoded
  have hsize := a.size_eq
  rw [hperm.length_eq] at hsize
  exact OneCodedTree.fullTree ⟨a, ha, by omega, by omega⟩ hn hk

/-- A tally that goes on had room for every byte (40_tree_builder.md R121). -/
theorem length_le_of_tally_eq_go {l : List Byte} {s u : State} (hl : s.mem.rest = l) (hin : s.inCount ≤ s.cfg.maxCount)
    (h : tally l.length s = .go () u) : s.inCount + l.length ≤ s.cfg.maxCount := by
  induction l generalizing s with
  | nil => exact hin
  | cons b l ih =>
    have hroom : s.inCount ≠ s.cfg.maxCount := fun hfull => by
      obtain ⟨e, -⟩ | ⟨_, _, -, -, hread⟩ := s.inRead_cases
      · rw [hl] at e; cases e
      · rw [List.length_cons, tally, hread] at h
        simp [stCount, hfull] at h
    rw [List.length_cons, tally_succ hl hroom] at h
    have key := ih (s := s.counted b) (Memory.rest_succ hl) (Nat.lt_of_le_of_ne hin hroom) h
    rw [State.counted_inCount, State.counted_cfg] at key
    rw [List.length_cons]
    omega

/-- An ENC_BUILD that goes on read a non-empty input that the counters can hold (44_encoder_commands.md R191). -/
theorem input_of_encBuildRun_eq_go {s t : State} (h : encBuildRun s = .go () t) :
    s.input ≠ [] ∧ s.input.length ≤ s.cfg.maxCount := by
  obtain ⟨_, u, hu, h⟩ := Run.bind_eq_go h
  have hmax : s.input.length ≤ s.cfg.maxCount := by
    simpa using length_le_of_tally_eq_go (l := s.input) (s := stClear (s.enter .encoder .countingFrequencies)) rfl
      (Nat.zero_le _) hu
  refine ⟨fun hnil => ?_, hmax⟩
  obtain ⟨u', hu', htally⟩ := encBuild_tallied hmax
  cases hu'.symm.trans hu
  have hzero : u.inCount = 0 := by rw [htally.inCount, hnil, List.length_nil]
  rw [encTree, if_pos hzero] at h
  cases h

/-! ### Either build -/

theorem build_fullTree {i : Instr} {s t : State} (hs : Inv s) (hi : i = .encBuild ∨ i = .decBuild) (h : exec i s = .next t)
    (hl : t.status.last = .ok) : FullTree t := by
  obtain rfl | rfl := hi
  · obtain ⟨hp, hgo⟩ := admitted_eq_go decide_eq_true_iff (encBuildRun_ends s) h hl
    obtain ⟨hne, hmax⟩ := input_of_encBuildRun_eq_go hgo
    obtain ⟨u, v, w, hst⟩ := encBuild_stages_of_next hs hp hne hmax h
    exact hst.fullTree hne
  · obtain ⟨hp, hgo⟩ := admitted_eq_go decide_eq_true_iff (decBuildRun_ends s) h hl
    obtain ⟨-, hempty, -⟩ := hs.idle_clean hp
    exact decBuildRun_fullTree hempty hgo

end Sys2Proof.Machine
end

section
/-! SUPPORT. The leaves' codes after a build (41_code_assigner.md R145). -/

namespace Sys2Proof.Machine

@[simp] theorem Node.codeBits_length (n : Node) : n.codeBits.length = n.codeLen.toNat := by simp [Node.codeBits]

/-- Equal code fields spell equal codes. -/
theorem Node.codeBits_congr {m n : Node} (h : (m.codeLen, m.codeVal) = (n.codeLen, n.codeVal)) : m.codeBits = n.codeBits := by
  obtain ⟨hl, hv⟩ := Prod.mk.inj h
  rw [Node.codeBits, Node.codeBits, hl, hv]

/-- The leaves' codes after a build are the paths to the leaves of a tree with an Internal root, no deeper than CODE_MAX. -/
theorem FullTree.leaf_codes {t : State} (h : FullTree t) : ∃ l r, (Tree.node l r).height ≤ codeMax ∧
    (Tree.node l r).leafPaths.Perm ((t.nodes.filter Node.isLeaf).map Node.codeBits) := by
  obtain ⟨l, r, hc, hsize, hcap⟩ := h
  have hh := (Tree.node l r).height_le_codeMax (hsize ▸ hcap)
  exact ⟨l, r, hh, hc.leaf_codes_perm hh hsize⟩

theorem FullTree.leaf_codes_incomparable {t : State} (h : FullTree t) {j k : Nat} {m n : Node} (hjk : j ≠ k)
    (hm : t.nodes[j]? = some m) (hn : t.nodes[k]? = some n) (hml : m.isLeaf = true) (hnl : n.isLeaf = true) :
    Incomparable m.codeBits n.codeBits := by
  obtain ⟨l, r, -, hperm⟩ := h.leaf_codes
  have hpair := (hperm.pairwise_iff Incomparable.symm).mp (Tree.node l r).leafPaths_incomparable
  rw [List.pairwise_map, List.pairwise_filter, List.pairwise_iff_getElem] at hpair
  obtain ⟨hj, rfl⟩ := List.getElem?_eq_some_iff.mp hm
  obtain ⟨hk, rfl⟩ := List.getElem?_eq_some_iff.mp hn
  obtain hlt | hlt := Nat.lt_or_gt_of_ne hjk
  · exact hpair j k hj hk hlt hml hnl
  · exact (hpair k j hk hj hlt hnl hml).symm

theorem FullTree.one_le_leaf_codeLen {t : State} (h : FullTree t) {n : Node} (hn : n ∈ t.nodes) (hleaf : n.isLeaf = true) :
    1 ≤ n.codeLen.toNat := by
  obtain ⟨l, r, -, hperm⟩ := h.leaf_codes
  have hmem := hperm.mem_iff.mpr (List.mem_map_of_mem (List.mem_filter.mpr ⟨hn, hleaf⟩))
  rw [← Node.codeBits_length]
  exact List.length_pos_iff.mpr (Tree.ne_nil_of_mem_leafPaths_node hmem)

theorem FullTree.kraft {t : State} (h : FullTree t) :
    ((t.nodes.filter Node.isLeaf).map fun n => 2 ^ (256 - n.codeLen.toNat)).sum = 2 ^ 256 := by
  obtain ⟨l, r, hh, hperm⟩ := h.leaf_codes
  have hsum := (hperm.map fun p => 2 ^ (codeMax - p.length)).sum_eq
  rw [Tree.kraft _ hh, List.map_map] at hsum
  simpa [codeMax, Function.comp_def] using hsum.symm

/-- Settles O37: after a build that ends OK the leaves of the arena are those of one tree, none of whose paths begins
another, and which meet the Kraft equality. -/
theorem codesArePrefixFreeAndComplete : Obligations.CodesArePrefixFreeAndComplete := by
  intro i s t hs hi h hl
  have hfull := build_fullTree hs hi h hl
  refine ⟨fun j k m n hjk hm hn hml hnl => ?_, fun n hn hleaf => hfull.one_le_leaf_codeLen hn hleaf, hfull.kraft⟩
  obtain ⟨hbegins, -⟩ := hfull.leaf_codes_incomparable hjk hm hn hml hnl
  exact ⟨hbegins, fun e => hbegins ⟨[], by rw [List.append_nil, Node.codeBits_congr e]⟩⟩

end Sys2Proof.Machine
end

section
/-! SUPPORT. The two parses of a header by what the bytes ahead begin with: the end of the stream, a marker, or a byte that is
none (42_tree_codec.md R153, R154). -/

namespace Sys2Proof.Machine

/-! ### The cursor -/

/-- The state with `n` more bytes of IN read. -/
def State.skip (n : Nat) (s : State) : State := { s with mem := { s.mem with pos := s.mem.pos + n } }

@[simp] theorem State.skip_nodeN (n : Nat) (s : State) : (s.skip n).nodeN = s.nodeN := rfl

theorem State.skip_add (m n : Nat) (s : State) : (s.skip m).skip n = s.skip (m + n) := by
  simp [State.skip, Nat.add_assoc]

theorem State.skip_rest {s : State} {front l : List Byte} (h : s.mem.rest = front ++ l) :
    (s.skip front.length).mem.rest = l := by
  change s.mem.data.drop (s.mem.pos + front.length) = l
  change s.mem.data.drop s.mem.pos = front ++ l at h
  rw [← List.drop_drop, h, List.drop_left]

theorem State.skip_one_rest {s : State} {b : Byte} {l : List Byte} (h : s.mem.rest = b :: l) : (s.skip 1).mem.rest = l :=
  State.skip_rest (front := [b]) h

theorem State.inRead_of_nil {s : State} (h : s.mem.rest = []) : s.inRead = (none, s) := by
  simp [State.inRead, h]

theorem State.inRead_of_cons {s : State} {b : Byte} {l : List Byte} (h : s.mem.rest = b :: l) :
    s.inRead = (some b, s.skip 1) := by
  simp [State.inRead, h, State.skip]

/-! ### The recursive parse -/

section Recursive

variable {fuel len val : Nat} {s : State} {l : List Byte}

theorem parseRec_of_nil (h : s.mem.rest = []) :
    parseRec (fuel + 1) len val s = .raised (s.raise .malformedTree) := by
  simp [parseRec, State.inRead_of_nil h]

theorem parseRec_of_other {b : Byte} (h : s.mem.rest = b :: l) (hN : b ≠ 0x4E#8) (hC : b ≠ 0x43#8) (hZ : b ≠ 0x5A#8) :
    parseRec (fuel + 1) len val s = .raised ((s.skip 1).raise .malformedTree) := by
  simp [parseRec, State.inRead_of_cons h, hN, hC, hZ]

theorem parseRec_of_bare_C (h : s.mem.rest = [0x43#8]) :
    parseRec (fuel + 1) len val s = .raised ((s.skip 1).raise .malformedTree) := by
  simp [parseRec, State.inRead_of_cons h, State.inRead_of_nil (State.skip_one_rest h)]

/-- The node the recursive parse allocates at a place (42_tree_codec.md R153, R161). -/
def placedNode (kind : NodeKind) (len val : Nat) : Node := ⟨kind, 0, BitVec.ofNat 9 len, BitVec.ofNat 256 val⟩

theorem parseRec_of_C {b : Byte} (h : s.mem.rest = 0x43#8 :: b :: l) :
    parseRec (fuel + 1) len val s =
      if s.nodeN = nodeCap then .raised ((s.skip 2).raise .capacityExceeded)
      else .go s.nextIndex ((s.skip 2).alloc (placedNode (.leaf (literalSymbol b)) len val)) := by
  simp only [parseRec, State.inRead_of_cons h, State.inRead_of_cons (State.skip_one_rest h)]
  rfl

/-- SENT_COUNT goes up (42_tree_codec.md R153). -/
def State.countSentinel (s : State) : State := { s with sentCount := s.sentCount + 1#9 }

theorem parseRec_of_Z (h : s.mem.rest = 0x5A#8 :: l) :
    parseRec (fuel + 1) len val s =
      if s.nodeN = nodeCap then .raised ((s.skip 1).raise .capacityExceeded)
      else .go s.nextIndex ((s.skip 1).countSentinel.alloc (placedNode (.leaf sentinel) len val)) := by
  simp only [parseRec, State.inRead_of_cons h]
  rfl

/-- The state after a token N: its node has no child yet (42_tree_codec.md R153). -/
def State.opened (len val : Nat) (s : State) : State := (s.skip 1).alloc (placedNode (.internal none none) len val)

@[simp] theorem State.opened_nodeN (len val : Nat) (s : State) : (s.opened len val).nodeN = s.nodeN + 1 := by
  rw [State.opened, State.alloc_nodeN, State.skip_nodeN]

/-- What follows the allocation of an Internal node at `i`: its left and its right sub-tree, each written to it
(42_tree_codec.md R153). -/
def parseChildren (fuel len val : Nat) (i : Index) (s : State) : Run Index :=
  (parseRec fuel (len + 1) (2 * val) s).bind fun l s2 =>
  (writeChild i .left l s2).bind fun _ s3 =>
  (parseRec fuel (len + 1) (2 * val + 1) s3).bind fun r s4 =>
  (writeChild i .right r s4).bind fun _ s5 => .go i s5

theorem parseRec_of_N (h : s.mem.rest = 0x4E#8 :: l) :
    parseRec (fuel + 1) len val s =
      if s.nodeN = nodeCap then .raised ((s.skip 1).raise .capacityExceeded)
      else parseChildren fuel len val s.nextIndex (s.opened len val) := by
  simp only [parseRec, State.inRead_of_cons h]
  rfl

end Recursive

/-- A byte sequence by what a parse finds at its front (42_tree_codec.md R153, R154). -/
inductive Front : List Byte → Prop where
  | nil : Front []
  | bareC : Front [0x43#8]
  | N (l : List Byte) : Front (0x4E#8 :: l)
  | C (b : Byte) (l : List Byte) : Front (0x43#8 :: b :: l)
  | Z (l : List Byte) : Front (0x5A#8 :: l)
  | other {b : Byte} (l : List Byte) (hN : b ≠ 0x4E#8) (hC : b ≠ 0x43#8) (hZ : b ≠ 0x5A#8) : Front (b :: l)

theorem Front.of (bytes : List Byte) : Front bytes := by
  cases bytes with
  | nil => exact .nil
  | cons b l =>
    by_cases hN : b = 0x4E#8
    · exact hN ▸ .N l
    by_cases hZ : b = 0x5A#8
    · exact hZ ▸ .Z l
    by_cases hC : b = 0x43#8
    · subst hC
      cases l with
      | nil => exact .bareC
      | cons b l => exact .C b l
    · exact .other l hN hC hZ

/-- What the recursive parse changes where it returns: the arena, SENT_COUNT, and IN read on (42_tree_codec.md R153). -/
theorem parseRec_frame {fuel len val : Nat} {s t : State} {j : Index} (h : parseRec fuel len val s = .go j t) :
    ∃ n, t = { s.skip n with nodes := t.nodes, sentCount := t.sentCount } := by
  induction fuel generalizing len val s t j with
  | zero => cases h
  | succ fuel ih =>
    have hf := Front.of s.mem.rest
    generalize e : s.mem.rest = bytes at hf
    cases hf with
    | nil => rw [parseRec_of_nil e] at h; cases h
    | bareC => rw [parseRec_of_bare_C e] at h; cases h
    | other l hN hC hZ => rw [parseRec_of_other e hN hC hZ] at h; cases h
    | C b l =>
      rw [parseRec_of_C e] at h
      split at h
      · cases h
      · cases h; exact ⟨2, rfl⟩
    | Z l =>
      rw [parseRec_of_Z e] at h
      split at h
      · cases h
      · cases h; exact ⟨1, rfl⟩
    | N l =>
      rw [parseRec_of_N e] at h
      split at h
      · cases h
      · obtain ⟨_, s2, h2, h⟩ := Run.bind_eq_go h
        obtain ⟨_, s3, h3, h⟩ := Run.bind_eq_go h
        obtain ⟨_, s4, h4, h⟩ := Run.bind_eq_go h
        obtain ⟨_, s5, h5, h⟩ := Run.bind_eq_go h
        obtain ⟨_, -, h3⟩ := readNode_bind_eq_go h3
        obtain ⟨_, -, h5⟩ := readNode_bind_eq_go h5
        cases h; cases h3; cases h5
        obtain ⟨m, e2⟩ := ih h2
        obtain ⟨n, e4⟩ := ih h4
        refine ⟨1 + m + n, ?_⟩
        rw [e4, e2]
        simp [State.skip, State.opened, State.alloc, State.setNode, Nat.add_assoc]

end Sys2Proof.Machine
end

section
/-! SUPPORT. The token-by-token parse is the recursive parse: the waiting activations are what the recursion has still to do, so
the loop from a state with activations waiting is the recursive parse of one sub-tree followed by its return to them
(42_tree_codec.md R153). -/

namespace Sys2Proof.Machine

variable {α β γ : Type}

theorem Run.bind_assoc (r : Run α) (k : α → State → Run β) (k' : β → State → Run γ) :
    (r.bind k).bind k' = r.bind fun a s => (k a s).bind k' := by
  cases r <;> rfl

/-- Sequences that start alike end alike where their second parts do so from every state the first leads to. -/
theorem Run.bind_congr {r : Run α} {k k' : α → State → Run β} (h : ∀ a s, r = .go a s → k a s = k' a s) :
    r.bind k = r.bind k' := by
  cases r with
  | go a s => exact h a s rfl
  | raised | fault => rfl

/-! ### The token at the front -/

section Fetch

variable {s : State} {l : List Byte}

theorem fetchToken_of_error {e : DecodeError} (h : decodeToken s.mem.rest = .error e) : fetchToken s = (none, s.inRead.2) := by
  simp [fetchToken, h]

theorem fetchToken_of_ok {i : Instr} {front : List Byte} (h : s.mem.rest = front ++ l) (hne : front ≠ [])
    (hd : decodeToken (front ++ l) = .ok (i, l)) : fetchToken s = (some i, s.skip front.length) := by
  have hlen := s.mem.rest_length
  have hpos := List.length_pos_iff.mpr hne
  rw [h, List.length_append] at hlen
  have e : s.mem.data.length - l.length = s.mem.pos + front.length := by omega
  simp [fetchToken, h, hd, e, State.skip]

theorem fetchToken_of_nil (h : s.mem.rest = []) : fetchToken s = (none, s) := by
  rw [fetchToken_of_error (e := .noMarker) (by rw [h]; rfl), State.inRead_of_nil h]

theorem fetchToken_of_bare_C (h : s.mem.rest = [0x43#8]) : fetchToken s = (none, s.skip 1) := by
  rw [fetchToken_of_error (e := .noLiteral) (by rw [h]; rfl), State.inRead_of_cons h]

theorem fetchToken_of_other {b : Byte} (h : s.mem.rest = b :: l) (hN : b ≠ 0x4E#8) (hC : b ≠ 0x43#8) (hZ : b ≠ 0x5A#8) :
    fetchToken s = (none, s.skip 1) := by
  have hd : decodeToken (b :: l) = .error (.badMarker b) := by simp [decodeToken, markerN, markerC, markerZ, hN, hC, hZ]
  rw [fetchToken_of_error (h ▸ hd), State.inRead_of_cons h]

theorem fetchToken_of_N (h : s.mem.rest = 0x4E#8 :: l) : fetchToken s = (some .tokN, s.skip 1) :=
  fetchToken_of_ok (front := [0x4E#8]) h (List.cons_ne_nil _ _) rfl

theorem fetchToken_of_C {b : Byte} (h : s.mem.rest = 0x43#8 :: b :: l) :
    fetchToken s = (some (.tokC (literalSymbol b)), s.skip 2) :=
  fetchToken_of_ok (front := [0x43#8, b]) h (List.cons_ne_nil _ _) rfl

theorem fetchToken_of_Z (h : s.mem.rest = 0x5A#8 :: l) : fetchToken s = (some .tokZ, s.skip 1) :=
  fetchToken_of_ok (front := [0x5A#8]) h (List.cons_ne_nil _ _) rfl

end Fetch

/-- A token takes a byte at least (30_encoding.md R93). -/
theorem fetchToken_rest_lt {s u : State} {i : Instr} (h : fetchToken s = (some i, u)) :
    u.mem.rest.length < s.mem.rest.length := by
  have hf := Front.of s.mem.rest
  generalize e : s.mem.rest = bytes at hf
  cases hf with
  | nil => rw [fetchToken_of_nil e] at h; cases h
  | bareC => rw [fetchToken_of_bare_C e] at h; cases h
  | other l hN hC hZ => rw [fetchToken_of_other e hN hC hZ] at h; cases h
  | N l =>
    cases (fetchToken_of_N e).symm.trans h
    rw [State.skip_one_rest e]
    exact Nat.lt_succ_self _
  | C b l =>
    cases (fetchToken_of_C e).symm.trans h
    have hrest := State.skip_rest (front := [0x43#8, b]) e
    simp at hrest
    simp [hrest]
  | Z l =>
    cases (fetchToken_of_Z e).symm.trans h
    rw [State.skip_one_rest e]
    exact Nat.lt_succ_self _

/-! ### The loop without its fuel -/

/-- One turn of the loop: a fetch and its token, then the test whether the outermost `parse` has returned. -/
theorem importLoop_succ (n : Nat) (s : State) : importLoop (n + 1) s =
    match fetchToken s with
    | (none, u) => .raised (u.raise .malformedTree)
    | (some i, u) => (runToken i u).bind fun _ t => if t.pend.isEmpty then .go () t else importLoop n t := rfl

theorem importLoop_zero_eq {n : Nat} {s : State} (h : s.mem.rest = []) : importLoop n s = importLoop 0 s := by
  cases n with
  | zero => rfl
  | succ n => rw [importLoop_succ, fetchToken_of_nil h]; rfl

/-- Fuel beyond the bytes not yet read makes no difference. -/
theorem importLoop_fuel {m n : Nat} {s : State} (hm : s.mem.rest.length ≤ m) (hn : s.mem.rest.length ≤ n) :
    importLoop m s = importLoop n s := by
  induction m generalizing n s with
  | zero => exact (importLoop_zero_eq (List.length_eq_zero_iff.mp (Nat.le_zero.mp hm))).symm
  | succ m ih =>
    cases n with
    | zero => exact importLoop_zero_eq (List.length_eq_zero_iff.mp (Nat.le_zero.mp hn))
    | succ n =>
      rw [importLoop_succ, importLoop_succ]
      split
      next => rfl
      next i u hu =>
        refine Run.bind_congr fun _ t ht => ?_
        have hmem : t.mem = u.mem := by rw [(runToken_frame ht).1]
        have hlt := fetchToken_rest_lt hu
        rw [ih (n := n) (by rw [hmem]; omega) (by rw [hmem]; omega)]

/-- TC.IMPORT from any point of a parse: the loop with the fuel it needs. -/
def importFrom (s : State) : Run Unit := importLoop s.mem.rest.length s

/-- The loop's test after a token: the outermost `parse` has returned, or another token is due. -/
def importNext (s : State) : Run Unit := if s.pend.isEmpty then .go () s else importFrom s

theorem importFrom_of_token {s u : State} {i : Instr} (h : fetchToken s = (some i, u)) :
    importFrom s = (runToken i u).bind fun _ t => importNext t := by
  have hlt := fetchToken_rest_lt h
  obtain ⟨k, hk⟩ := Nat.exists_eq_add_one_of_ne_zero (Nat.ne_of_gt (Nat.zero_lt_of_lt hlt))
  rw [importFrom, hk, importLoop_succ, h]
  refine Run.bind_congr fun _ t ht => ?_
  have hmem : t.mem = u.mem := by rw [(runToken_frame ht).1]
  rw [importNext, importFrom, importLoop_fuel (m := k) (by rw [hmem]; omega) (Nat.le_refl _)]

theorem importFrom_of_none {s u : State} (h : fetchToken s = (none, u)) (hu : s.mem.rest = [] → u = s) :
    importFrom s = .raised (u.raise .malformedTree) := by
  rw [importFrom]
  cases e : s.mem.rest with
  | nil => rw [hu e]; rfl
  | cons b l => rw [List.length_cons, importLoop_succ, h]

/-! ### The loop as the recursion -/

/-- The state with other activations waiting. -/
def State.awaiting (fs : List Frame) (s : State) : State := { s with pend := fs }

/-- The return of a sub-tree does not look at the activations of the state, but at those it is given. -/
theorem tcReturn_awaiting (fs gs : List Frame) (j : Index) (s : State) : tcReturn fs j (s.awaiting gs) = tcReturn fs j s := by
  induction fs generalizing j s with
  | nil => rfl
  | cons f fs ih =>
    obtain ⟨i, len, val, side⟩ := f
    cases hn : s.node? i with
    | none => simp [tcReturn, readNode, State.awaiting, State.node?, show s.nodes[i.toNat]? = none from hn]
    | some n =>
      have hn' : (s.awaiting gs).node? i = some n := hn
      cases side with
      | left => rw [tcReturn_left hn, tcReturn_left hn']; rfl
      | right => rw [tcReturn_right hn, tcReturn_right hn']; exact ih i (s.setNode i (n.withChild .right j))

/-- The return of a sub-tree to the waiting activations, and the rest of the parse. -/
def returnTo (fs : List Frame) (j : Index) (s : State) : Run Unit := (tcReturn fs j s).bind fun _ t => importNext t

/-- A leaf token allocates its leaf at the place parsed next and returns it, where there is room (42_tree_codec.md R153). -/
theorem tokenLeaf_awaiting (symbol : Symbol) (fs : List Frame) (s : State) :
    tokenLeaf symbol (s.awaiting fs) =
      if s.nodeN = nodeCap then .raised (s.raise .capacityExceeded)
      else tcReturn fs s.nextIndex (s.alloc (placedNode (.leaf symbol) (nextPlace fs).1 (nextPlace fs).2)) := by
  rw [← tcReturn_awaiting fs fs]
  rfl

theorem runToken_C_awaiting (symbol : Symbol) (fs : List Frame) (s : State) :
    runToken (.tokC symbol) ((s.awaiting fs).skip 2) =
      if s.nodeN = nodeCap then .raised ((s.skip 2).raise .capacityExceeded)
      else tcReturn fs s.nextIndex ((s.skip 2).alloc (placedNode (.leaf symbol) (nextPlace fs).1 (nextPlace fs).2)) :=
  tokenLeaf_awaiting symbol fs (s.skip 2)

theorem runToken_Z_awaiting (fs : List Frame) (s : State) :
    runToken .tokZ ((s.awaiting fs).skip 1) =
      if s.nodeN = nodeCap then .raised ((s.skip 1).raise .capacityExceeded)
      else tcReturn fs s.nextIndex
        ((s.skip 1).countSentinel.alloc (placedNode (.leaf sentinel) (nextPlace fs).1 (nextPlace fs).2)) := by
  have h := tokenLeaf_awaiting sentinel fs (s.skip 1).countSentinel
  by_cases hfull : s.nodeN = nodeCap
  · rw [if_pos hfull]
    exact if_pos hfull
  · rw [if_neg hfull]
    exact (if_neg hfull).trans (h.trans (if_neg hfull))

/-- Token N allocates its node at the place parsed next, and the node waits for its left sub-tree (42_tree_codec.md R153). -/
theorem runToken_N_awaiting (fs : List Frame) (s : State) :
    runToken .tokN ((s.awaiting fs).skip 1) =
      if s.nodeN = nodeCap then .raised ((s.skip 1).raise .capacityExceeded)
      else .go () ((s.opened (nextPlace fs).1 (nextPlace fs).2).awaiting
        (⟨s.nextIndex, (nextPlace fs).1, (nextPlace fs).2, .left⟩ :: fs)) := rfl

theorem returnTo_left (i j : Index) (len val : Nat) (fs : List Frame) (s : State) :
    returnTo (⟨i, len, val, .left⟩ :: fs) j s =
      (writeChild i .left j s).bind fun _ t => importFrom (t.awaiting (⟨i, len, val, .right⟩ :: fs)) := by
  rw [returnTo, tcReturn, writeChild, Run.bind_assoc, Run.bind_assoc]
  rfl

theorem returnTo_right (i j : Index) (len val : Nat) (fs : List Frame) (s : State) :
    returnTo (⟨i, len, val, .right⟩ :: fs) j s = (writeChild i .right j s).bind fun _ t => returnTo fs i t := by
  rw [returnTo, tcReturn, writeChild, Run.bind_assoc, Run.bind_assoc]
  rfl

theorem writeChild_mem {i j : Index} {side : Side} {s t : State} (h : writeChild i side j s = .go () t) : t.mem = s.mem := by
  obtain ⟨n, -, h⟩ := readNode_bind_eq_go h
  cases h
  rfl

theorem parseRec_rest_le {fuel len val : Nat} {s t : State} {j : Index} (h : parseRec fuel len val s = .go j t) :
    t.mem.rest.length ≤ s.mem.rest.length := by
  obtain ⟨n, e⟩ := parseRec_frame h
  have hmem : t.mem = (s.skip n).mem := by rw [e]
  rw [hmem, Memory.rest_length, Memory.rest_length]
  change s.mem.data.length - (s.mem.pos + n) ≤ _
  omega

/-- The rest of a parse with activations waiting is the parse of one sub-tree, its return to them, and the rest after that. -/
theorem importFrom_awaiting {fuel : Nat} {s : State} (fs : List Frame) (hf : s.mem.rest.length < fuel) :
    importFrom (s.awaiting fs) = (parseRec fuel (nextPlace fs).1 (nextPlace fs).2 s).bind (returnTo fs) := by
  induction fuel generalizing s fs with
  | zero => exact absurd hf (Nat.not_lt_zero _)
  | succ fuel ih =>
    have hfront := Front.of s.mem.rest
    generalize e : s.mem.rest = bytes at hfront
    have e' : (s.awaiting fs).mem.rest = bytes := e
    cases hfront with
    | nil => rw [parseRec_of_nil e, importFrom_of_none (fetchToken_of_nil e') fun _ => rfl]; rfl
    | bareC => rw [parseRec_of_bare_C e, importFrom_of_none (fetchToken_of_bare_C e') (by simp [e'])]; rfl
    | other l hN hC hZ =>
      rw [parseRec_of_other e hN hC hZ, importFrom_of_none (fetchToken_of_other e' hN hC hZ) (by simp [e'])]; rfl
    | C b l =>
      rw [parseRec_of_C e, importFrom_of_token (fetchToken_of_C e'), runToken_C_awaiting]
      by_cases hfull : s.nodeN = nodeCap
      · rw [if_pos hfull, if_pos hfull]; rfl
      · rw [if_neg hfull, if_neg hfull]; rfl
    | Z l =>
      rw [parseRec_of_Z e, importFrom_of_token (fetchToken_of_Z e'), runToken_Z_awaiting]
      by_cases hfull : s.nodeN = nodeCap
      · rw [if_pos hfull, if_pos hfull]; rfl
      · rw [if_neg hfull, if_neg hfull]; rfl
    | N l =>
      rw [parseRec_of_N e, importFrom_of_token (fetchToken_of_N e'), runToken_N_awaiting]
      by_cases hfull : s.nodeN = nodeCap
      · rw [if_pos hfull, if_pos hfull]; rfl
      rw [if_neg hfull, if_neg hfull, Run.bind_go, parseChildren, Run.bind_assoc]
      have hlt : (s.skip 1).mem.rest.length < fuel := by
        rw [e] at hf
        rw [State.skip_one_rest e]
        exact Nat.lt_of_succ_lt_succ hf
      refine (ih (s := s.opened _ _) (⟨s.nextIndex, _, _, .left⟩ :: fs) hlt).trans (Run.bind_congr fun j t ht => ?_)
      rw [returnTo_left, Run.bind_assoc]
      refine Run.bind_congr fun _ u hu => ?_
      have hle : u.mem.rest.length < fuel := by
        rw [writeChild_mem hu]
        exact (parseRec_rest_le ht).trans_lt hlt
      rw [ih (_ :: fs) hle, Run.bind_assoc]
      refine Run.bind_congr fun r v _ => ?_
      rw [returnTo_right, Run.bind_assoc]
      rfl

/-- Settles O47: with no activation waiting, what the outermost `parse` returns is ROOT and the parse is over. -/
theorem tokenLoopIsTheRecursiveParse : Obligations.TokenLoopIsTheRecursiveParse := by
  intro s _ hpend
  have h := importFrom_awaiting (s := s) [] (Nat.lt_succ_self _)
  refine h.trans (Run.bind_congr fun r t ht => ?_)
  obtain ⟨n, e⟩ := parseRec_frame ht
  have hnil : t.pend = [] := by rw [e]; exact hpend
  change Run.go () { t with root := r, pend := [] } = _
  rw [← hnil]

end Sys2Proof.Machine
end

section
/-! SUPPORT. The recursive parse on the header of a tree: the entries it allocates, in pre-order (42_tree_codec.md R153), and
where it stops when the arena is too small (R157). -/

namespace Sys2Proof.Machine

/-! ### The entries of an imported tree -/

/-- The entries of a tree in pre-order from the index `base` on, each with the code of its place and frequency 0
(42_tree_codec.md R153, R161). -/
def Tree.layout : Tree → Nat → Nat → Nat → List Node
  | .leaf symbol, _, len, val => [placedNode (.leaf symbol) len val]
  | .node l r, base, len, val =>
    placedNode (.internal (some (BitVec.ofNat 10 (base + 1))) (some (BitVec.ofNat 10 (base + 1 + l.size)))) len val ::
      (l.layout (base + 1) (len + 1) (2 * val) ++ r.layout (base + 1 + l.size) (len + 1) (2 * val + 1))

@[simp] theorem Tree.layout_length (t : Tree) (base len val : Nat) : (t.layout base len val).length = t.size := by
  induction t generalizing base len val with
  | leaf => rfl
  | node l r ihl ihr => simp [Tree.layout, Tree.size, ihl, ihr]

theorem Tree.layout_freq (t : Tree) (base len val : Nat) : ∀ n ∈ t.layout base len val, n.freq = 0 := by
  induction t generalizing base len val with
  | leaf => simp [Tree.layout, placedNode]
  | node l r ihl ihr =>
    intro n hn
    obtain rfl | hn := List.mem_cons.mp hn
    · rfl
    · obtain hn | hn := List.mem_append.mp hn
      · exact ihl _ _ _ n hn
      · exact ihr _ _ _ n hn

/-- The first entry after `before` is found at its index. -/
theorem getElem?_ofNat_before {nodes before after : List Node} {n : Node} (h : nodes = before ++ n :: after)
    (hcap : before.length < nodeCap) : nodes[(BitVec.ofNat 10 before.length).toNat]? = some n := by
  have e : (BitVec.ofNat 10 before.length).toNat = before.length := by
    rw [BitVec.toNat_ofNat, Nat.mod_eq_of_lt (hcap.trans (by decide))]
  rw [e, h, List.getElem?_append_right (Nat.le_refl _), Nat.sub_self, List.getElem?_cons_zero]

/-- An arena in which a tree's entries stand from an index on holds the tree there, coded by places. -/
theorem Tree.coded_layout (t : Tree) {nodes before after : List Node} {base len val : Nat} (hb : before.length = base)
    (h : nodes = before ++ (t.layout base len val ++ after)) (hcap : base + t.size ≤ nodeCap) :
    Coded nodes (BitVec.ofNat 10 base) t len val := by
  induction t generalizing before after base len val with
  | leaf symbol => exact .leaf (hb ▸ getElem?_ofNat_before h (hb ▸ hcap))
  | node l r ihl ihr =>
    rw [Tree.layout, List.cons_append, List.append_assoc] at h
    rw [Tree.size] at hcap
    have hroot := getElem?_ofNat_before h (by omega)
    rw [hb] at hroot
    generalize placedNode _ len val = n at h
    refine .node hroot
      (ihl (before := before ++ [n]) (after := r.layout (base + 1 + l.size) (len + 1) (2 * val + 1) ++ after) ?_ (h.trans ?_)
        (by omega))
      (ihr (before := before ++ n :: l.layout (base + 1) (len + 1) (2 * val)) (after := after) ?_ (h.trans ?_) (by omega))
    · rw [List.length_append, List.length_singleton, hb]
    · exact (List.append_assoc before [n] _).symm
    · rw [List.length_append, List.length_cons, Tree.layout_length]
      omega
    · rw [List.append_assoc, List.cons_append]

theorem Tree.tokens_length (t : Tree) : t.tokens.length = t.size := by
  induction t with
  | leaf symbol => simp only [Tree.tokens]; split <;> rfl
  | node l r ihl ihr => simp [Tree.tokens, Tree.size, ihl, ihr]

/-- The header is its tokens' bytes. -/
theorem Tree.tokens_flatten (t : Tree) : t.tokens.flatten = t.header := by
  induction t with
  | leaf symbol => simp only [Tree.tokens, Tree.header]; split <;> rfl
  | node l r ihl ihr => simp [Tree.tokens, Tree.header, ihl, ihr]

@[simp] theorem Tree.sentinels_node (l r : Tree) : (Tree.node l r).sentinels = l.sentinels + r.sentinels :=
  List.count_append

theorem Tree.header_sentinel : (Tree.leaf sentinel).header = [0x5A#8] := rfl

theorem Tree.sentinels_literal {symbol : Symbol} (h : symbol ≠ sentinel) : (Tree.leaf symbol).sentinels = 0 :=
  List.count_eq_zero.mpr fun hmem => h (List.mem_singleton.mp hmem).symm

theorem Tree.header_literal {symbol : Symbol} (h : symbol ≠ sentinel) :
    (Tree.leaf symbol).header = [0x43#8, symbol.setWidth 8] := if_neg h

theorem Tree.header_length_pos (t : Tree) : 0 < t.header.length := by
  cases t with
  | leaf symbol =>
    by_cases h : symbol = sentinel
    · rw [h, Tree.header_sentinel]; exact Nat.one_pos
    · rw [Tree.header_literal h]; exact Nat.two_pos
  | node l r => exact Nat.succ_pos _

theorem Tree.exists_fuel {t : Tree} {fuel : Nat} (h : t.header.length ≤ fuel) : ∃ k, fuel = k + 1 :=
  Nat.exists_eq_add_one_of_ne_zero (Nat.ne_of_gt (t.header_length_pos.trans_le h))

theorem Tree.symbolsOk_node {l r : Tree} : (Tree.node l r).symbolsOk = true ↔ l.symbolsOk = true ∧ r.symbolsOk = true := by
  simp [Tree.symbolsOk, Tree.symbols]

/-- A leaf symbol that is not the sentinel is the literal its header byte spells (30_encoding.md R95). -/
theorem literalSymbol_setWidth {symbol : Symbol} (h : (Tree.leaf symbol).symbolsOk = true) (hne : symbol ≠ sentinel) :
    literalSymbol (symbol.setWidth 8) = symbol := by
  have hle : symbol.toNat ≤ 256 := by simpa [Tree.symbolsOk, Tree.symbols] using h
  have hne' : symbol.toNat ≠ 256 := fun e => hne (BitVec.eq_of_toNat_eq e)
  apply BitVec.eq_of_toNat_eq
  simp only [literalSymbol, BitVec.toNat_setWidth]
  omega

/-! ### The parse of a header that fits -/

/-- What the parse of a tree's header leaves (42_tree_codec.md R153). -/
def State.imported (t : Tree) (len val : Nat) (s : State) : State :=
  { s.skip t.header.length with
    nodes := s.nodes ++ t.layout s.nodeN len val
    sentCount := s.sentCount + BitVec.ofNat 9 t.sentinels }

theorem writeChild_eq {s : State} {i : Index} {side : Side} {child : Index} {before after : List Node} {n : Node}
    (hs : s.nodes = before ++ n :: after) (hi : i.toNat = before.length) :
    writeChild i side child s = .go () { s with nodes := before ++ n.withChild side child :: after } := by
  have hn : s.node? i = some n := by simp [State.node?, hs, hi]
  simp [writeChild, readNode_eq hn, State.setNode, hs, hi]

/-- The state after a token N and its left sub-tree, which is written to its node (42_tree_codec.md R153). -/
def State.halfImported (l : Tree) (len val : Nat) (s : State) : State :=
  { s.skip (l.header.length + 1) with
    nodes := s.nodes ++ placedNode (.internal (some (BitVec.ofNat 10 (s.nodeN + 1))) none) len val ::
      l.layout (s.nodeN + 1) (len + 1) (2 * val)
    sentCount := s.sentCount + BitVec.ofNat 9 l.sentinels }

@[simp] theorem State.halfImported_nodeN (l : Tree) (len val : Nat) (s : State) :
    (s.halfImported l len val).nodeN = s.nodeN + 1 + l.size := by
  simp only [State.halfImported, State.nodeN, List.length_append, List.length_cons, Tree.layout_length]
  omega

theorem State.halfImported_rest {l : Tree} {len val : Nat} {s : State} {more : List Byte}
    (h : s.mem.rest = 0x4E#8 :: (l.header ++ more)) : (s.halfImported l len val).mem.rest = more :=
  State.skip_rest (front := 0x4E#8 :: l.header) h

/-- An Internal node whose left sub-tree has been parsed is given it, and its right sub-tree is parsed next. -/
theorem parseChildren_of_left {fuel len val : Nat} {s : State} {l : Tree} (hroom : s.nodeN < nodeCap)
    (hl : parseRec fuel (len + 1) (2 * val) (s.opened len val) =
      .go (s.opened len val).nextIndex ((s.opened len val).imported l (len + 1) (2 * val))) :
    parseChildren fuel len val s.nextIndex (s.opened len val) =
      (parseRec fuel (len + 1) (2 * val + 1) (s.halfImported l len val)).bind fun r u =>
      (writeChild s.nextIndex .right r u).bind fun _ v => .go s.nextIndex v := by
  have hnodes : ((s.opened len val).imported l (len + 1) (2 * val)).nodes =
      s.nodes ++ placedNode (.internal none none) len val :: l.layout (s.nodeN + 1) (len + 1) (2 * val) := by
    rw [State.imported, State.opened_nodeN]
    exact List.append_assoc s.nodes [_] _
  have hstate : { (s.opened len val).imported l (len + 1) (2 * val) with
      nodes := s.nodes ++ (placedNode (.internal none none) len val).withChild .left (s.opened len val).nextIndex ::
        l.layout (s.nodeN + 1) (len + 1) (2 * val) } = s.halfImported l len val := by
    rw [State.nextIndex, State.opened_nodeN, State.imported, State.halfImported, State.opened]
    simp [State.skip, State.alloc, Nat.add_assoc, Nat.add_comm, placedNode, Node.withChild]
  rw [parseChildren, hl, Run.bind_go, writeChild_eq hnodes (nextIndex_toNat hroom), Run.bind_go, hstate]

/-- The node's right sub-tree is written to it, and the node's tree is complete. -/
theorem writeChild_right_halfImported {len val : Nat} {s : State} {l r : Tree} (hroom : s.nodeN < nodeCap) :
    writeChild s.nextIndex .right (s.halfImported l len val).nextIndex
      ((s.halfImported l len val).imported r (len + 1) (2 * val + 1)) = .go () (s.imported (.node l r) len val) := by
  have hnodes : ((s.halfImported l len val).imported r (len + 1) (2 * val + 1)).nodes =
      s.nodes ++ placedNode (.internal (some (BitVec.ofNat 10 (s.nodeN + 1))) none) len val ::
        (l.layout (s.nodeN + 1) (len + 1) (2 * val) ++ r.layout (s.nodeN + 1 + l.size) (len + 1) (2 * val + 1)) := by
    rw [State.imported, State.halfImported_nodeN]
    exact List.append_assoc s.nodes (_ :: _) _
  rw [writeChild_eq hnodes (nextIndex_toNat hroom), State.nextIndex, State.halfImported_nodeN, State.imported, State.imported,
    State.halfImported, Tree.layout, Tree.sentinels_node, Tree.header]
  simp [State.skip, placedNode, Node.withChild, Nat.add_assoc, Nat.add_comm, BitVec.add_assoc, BitVec.ofNat_add]

/-- The header of a tree for which the arena has room is parsed to its end, into the tree's entries. -/
theorem parseRec_header {t : Tree} {fuel len val : Nat} {s : State} {more : List Byte} (h : s.mem.rest = t.header ++ more)
    (hok : t.symbolsOk = true) (hcap : s.nodeN + t.size ≤ nodeCap) (hf : t.header.length ≤ fuel) :
    parseRec fuel len val s = .go s.nextIndex (s.imported t len val) := by
  induction t generalizing fuel len val s more with
  | leaf symbol =>
    have hne : s.nodeN ≠ nodeCap := Nat.ne_of_lt hcap
    obtain ⟨fuel, rfl⟩ := Tree.exists_fuel hf
    by_cases hs : symbol = sentinel
    · subst hs
      rw [parseRec_of_Z h, if_neg hne]
      rfl
    · rw [Tree.header_literal hs] at h
      rw [parseRec_of_C h, if_neg hne, literalSymbol_setWidth hok hs, State.imported, Tree.header_literal hs,
        Tree.sentinels_literal hs]
      simp [State.skip, State.alloc, Tree.layout]
  | node l r ihl ihr =>
    obtain ⟨fuel, rfl⟩ := Tree.exists_fuel hf
    rw [Tree.header, List.length_cons, List.length_append] at hf
    rw [Tree.size] at hcap
    obtain ⟨hokl, hokr⟩ := Tree.symbolsOk_node.mp hok
    rw [Tree.header, List.cons_append, List.append_assoc] at h
    have hleft := ihl (fuel := fuel) (len := len + 1) (val := 2 * val) (s := s.opened len val) (State.skip_one_rest h) hokl
      (by rw [State.opened_nodeN]; omega) (by omega)
    have hright := ihr (fuel := fuel) (len := len + 1) (val := 2 * val + 1) (s := s.halfImported l len val)
      (State.halfImported_rest h) hokr (by rw [State.halfImported_nodeN]; omega) (by omega)
    rw [parseRec_of_N h, if_neg (by omega)]
    rw [parseChildren_of_left (by omega) hleft, hright, Run.bind_go, writeChild_right_halfImported (by omega), Run.bind_go]

/-! ### The parse of a header that does not fit -/

/-- The arena is full, and from `s` on `n` bytes have been read. -/
def FullAfter (n : Nat) (s u : State) : Prop :=
  u.nodeN = nodeCap ∧ u = { s.skip n with nodes := u.nodes, sentCount := u.sentCount }

theorem FullAfter.of_skip {m n k : Nat} {s s' u : State} (h : FullAfter n s' u)
    (hs : s' = { s.skip m with nodes := s'.nodes, sentCount := s'.sentCount }) (hk : k = m + n) : FullAfter k s u := by
  obtain ⟨hfull, hu⟩ := h
  refine ⟨hfull, hu.trans ?_⟩
  rw [hs, hk, ← State.skip_add]
  rfl

/-- The header of a tree for which the arena has no room fails with CapacityExceeded at the token that would allocate the 514th
node, with that token's bytes consumed (42_tree_codec.md R157). -/
theorem parseRec_beyond {t : Tree} {fuel len val : Nat} {s : State} {more : List Byte} (h : s.mem.rest = t.header ++ more)
    (hok : t.symbolsOk = true) (hs : s.nodeN ≤ nodeCap) (hcap : nodeCap < s.nodeN + t.size) (hf : t.header.length ≤ fuel) :
    ∃ u : State, parseRec fuel len val s = .raised (u.raise .capacityExceeded) ∧
      FullAfter (t.tokens.take (nodeCap - s.nodeN + 1)).flatten.length s u := by
  induction t generalizing fuel len val s more with
  | leaf symbol =>
    have hfull : s.nodeN = nodeCap := Nat.le_antisymm hs (Nat.le_of_lt_succ hcap)
    obtain ⟨fuel, rfl⟩ := Tree.exists_fuel hf
    rw [List.take_of_length_le (by rw [Tree.tokens_length]; exact Nat.le_add_left 1 _), Tree.tokens_flatten]
    by_cases hs : symbol = sentinel
    · subst hs
      exact ⟨s.skip 1, by rw [parseRec_of_Z h, if_pos hfull], hfull, rfl⟩
    · rw [Tree.header_literal hs] at h ⊢
      exact ⟨s.skip 2, by rw [parseRec_of_C h, if_pos hfull], hfull, rfl⟩
  | node l r ihl ihr =>
    obtain ⟨fuel, rfl⟩ := Tree.exists_fuel hf
    rw [Tree.header, List.length_cons, List.length_append] at hf
    rw [Tree.size] at hcap
    obtain ⟨hokl, hokr⟩ := Tree.symbolsOk_node.mp hok
    rw [Tree.header, List.cons_append, List.append_assoc] at h
    rw [Tree.tokens, List.take_succ_cons, List.flatten_cons, List.length_append, List.length_singleton]
    obtain hfull | hroom := Nat.eq_or_lt_of_le hs
    · rw [parseRec_of_N h, if_pos hfull, hfull, Nat.sub_self, List.take_zero]
      exact ⟨s.skip 1, rfl, hfull, rfl⟩
    rw [parseRec_of_N h, if_neg (Nat.ne_of_lt hroom)]
    obtain hl | hl := Nat.lt_or_ge nodeCap (s.nodeN + 1 + l.size)
    · obtain ⟨u, hu, hfull⟩ := ihl (fuel := fuel) (len := len + 1) (val := 2 * val) (s := s.opened len val)
        (State.skip_one_rest h) hokl (by rw [State.opened_nodeN]; omega) (by rw [State.opened_nodeN]; omega) (by omega)
      refine ⟨u, ?_, hfull.of_skip (m := 1) rfl ?_⟩
      · rw [parseChildren, hu, Run.bind_raised]
      · rw [State.opened_nodeN, List.take_append_of_le_length (by rw [Tree.tokens_length]; omega),
          show nodeCap - (s.nodeN + 1) + 1 = nodeCap - s.nodeN by omega]
    · have hleft := parseRec_header (fuel := fuel) (len := len + 1) (val := 2 * val) (s := s.opened len val)
        (State.skip_one_rest h) hokl (by rw [State.opened_nodeN]; omega) (by omega)
      obtain ⟨u, hu, hfull⟩ := ihr (fuel := fuel) (len := len + 1) (val := 2 * val + 1) (s := s.halfImported l len val)
        (State.halfImported_rest h) hokr (by rw [State.halfImported_nodeN]; omega) (by rw [State.halfImported_nodeN]; omega)
        (by omega)
      refine ⟨u, ?_, hfull.of_skip (m := l.header.length + 1) rfl ?_⟩
      · rw [parseChildren_of_left hroom hleft, hu, Run.bind_raised]
      · rw [State.halfImported_nodeN, List.take_append, List.take_of_length_le (by rw [Tree.tokens_length]; omega),
          List.flatten_append, List.length_append, Tree.tokens_flatten, Tree.tokens_length,
          show nodeCap - (s.nodeN + 1 + l.size) + 1 = nodeCap - s.nodeN - l.size by omega]
        omega

end Sys2Proof.Machine
end

section
/-! SUPPORT. DEC_BUILD on the header of a tree: accepted, malformed, or beyond the arena (42_tree_codec.md R155 to R157,
R161). -/

namespace Sys2Proof.Machine

/-- DEC_BUILD from Idle is the recursive parse, then TC.CHECK and the end of the command (45_decoder_commands.md R211). -/
theorem exec_decBuild_eq {s : State} (hs : Inv s) (hp : s.status.phase = .idle) :
    exec .decBuild s =
      ((parseRec (s.input.length + 1) 0 0 (decStart s)).bind fun r u => decFinish { u with root := r }).outcome := by
  obtain ⟨-, hnodes, -⟩ := hs.idle_clean hp
  obtain ⟨-, hpend, -⟩ := hs.locals
  obtain ⟨-, e⟩ | ⟨hno, -⟩ := admitted_cases (s.status.phase = .idle) s decBuildRun
  · refine e.trans (congrArg Run.outcome ?_)
    rw [decBuildRun, tokenLoopIsTheRecursiveParse (decStart s) hnodes hpend, importRec, Run.bind_assoc]
    rfl
  · simp [hp] at hno

/-- The state of DEC_BUILD in which the whole header of a tree has been parsed (45_decoder_commands.md R211). -/
def State.headerRead (T : Tree) (s : State) : State :=
  { decStart s with
    nodes := T.layout 0 0 0
    root := 0#10
    sentCount := BitVec.ofNat 9 T.sentinels
    mem := { s.mem with pos := s.mem.pos + T.header.length } }

theorem State.headerRead_coded {T : Tree} (s : State) (hcap : T.size ≤ nodeCap) : Coded (s.headerRead T).nodes 0#10 T 0 0 :=
  T.coded_layout (before := []) (after := []) rfl (List.append_nil _).symm (by omega)

/-- DEC_BUILD on a header for which the arena has room checks the tree it has parsed. -/
theorem exec_decBuild_of_header {s : State} {T : Tree} {more : List Byte} (hs : Inv s) (hp : s.status.phase = .idle)
    (hok : T.symbolsOk = true) (hcap : T.size ≤ nodeCap) (h : s.input = T.header ++ more) :
    exec .decBuild s = (decFinish (s.headerRead T)).outcome := by
  obtain ⟨-, hnodes, -⟩ := hs.idle_clean hp
  have hN : (decStart s).nodeN = 0 := congrArg List.length hnodes
  have hstate : { (decStart s).imported T 0 0 with root := (decStart s).nextIndex } = s.headerRead T := by
    simp [State.headerRead, State.imported, State.skip, State.nextIndex, hN, hnodes]
  rw [exec_decBuild_eq hs hp, parseRec_header (s := decStart s) h hok (by omega)
    (by rw [h, List.length_append]; omega), Run.bind_go, hstate]

/-! ### TC.CHECK -/

theorem tcCheck_of_count {s : State} (h : s.sentCount ≠ 1#9) : tcCheck s = .raised (s.raise .malformedTree) := if_neg h

theorem tcCheck_of_leaf {s : State} {symbol : Symbol} (h : Holds s.nodes s.root (.leaf symbol)) :
    tcCheck s = .raised (s.raise .malformedTree) := by
  cases h with
  | leaf hn hk => simp [tcCheck, readNode_eq hn, hk]

theorem tcCheck_of_node {s : State} {l r : Tree} (hc : s.sentCount = 1#9) (h : Holds s.nodes s.root (.node l r)) :
    tcCheck s = .go () s := by
  cases h with
  | node hn hk => simp [tcCheck, hc, readNode_eq hn, hk]

theorem Tree.sentinels_le {T : Tree} (h : T.size ≤ nodeCap) : T.sentinels ≤ 257 := by
  have hsize := T.size_eq
  have hle : T.sentinels ≤ T.symbols.length := List.count_le_length
  rw [nodeCap] at h
  omega

theorem Tree.acceptable_iff {T : Tree} : T.acceptable = true ↔
    T.symbolsOk = true ∧ T.size ≤ nodeCap ∧ T.sentinels = 1 ∧ T.isNode = true := by
  simp [Tree.acceptable, and_assoc]

/-! ### The statements -/

/-- The state DEC_BUILD ends in on the header of an acceptable tree (42_tree_codec.md R161; 45_decoder_commands.md R211). -/
def State.accepted (T : Tree) (s : State) : State :=
  { s with
    nodes := T.layout 0 0 0
    root := 0#10
    sentCount := 1#9
    hdrBytes := BitVec.ofNat 10 T.header.length
    mem := { s.mem with pos := s.mem.pos + T.header.length }
    status := Status.passed { s.status with mode := .decoder } .ready }

theorem exec_decBuild_of_acceptable {s : State} {T : Tree} {more : List Byte} (hs : Inv s) (hp : s.status.phase = .idle)
    (hT : T.acceptable = true) (h : s.input = T.header ++ more) : exec .decBuild s = .next (s.accepted T) := by
  obtain ⟨hq, hpend, hstart, -⟩ := hs.locals
  obtain ⟨hok, hcap, hone, hnode⟩ := Tree.acceptable_iff.mp hT
  have hcoded := s.headerRead_coded hcap
  rw [exec_decBuild_of_header hs hp hok hcap h, decFinish]
  cases T with
  | leaf => cases hnode
  | node l r =>
    rw [tcCheck_of_node (congrArg (BitVec.ofNat 9) hone) hcoded.holds, Run.bind_go, Run.outcome_go]
    simp [State.retOk, State.dropLocals, State.headerRead, State.accepted, Status.passed, hone, hq, hpend, hstart]

theorem State.accepted_tree? {s : State} {T : Tree} (hcap : T.size ≤ nodeCap) : (s.accepted T).tree? = some T :=
  (s.headerRead_coded hcap).holds.readTree_eq (Nat.lt_succ_of_le (T.height_le_codeMax hcap))

/-- Settles O43: the recursive parse lays the tree's entries out from index 0, and TC.CHECK accepts them. -/
theorem decBuildImportsTheHeader : Obligations.DecBuildImportsTheHeader := by
  intro s T more hs hp hT h
  obtain ⟨-, hcap, -⟩ := Tree.acceptable_iff.mp hT
  exact ⟨s.accepted T, exec_decBuild_of_acceptable hs hp hT h, State.accepted_tree? hcap, T.layout_length 0 0 0,
    T.layout_freq 0 0 0, rfl⟩

/-- Settles O44: the whole header is parsed, and TC.CHECK fails on the count of sentinels or on the root. -/
theorem wrongSentinelCountIsMalformed : Obligations.WrongSentinelCountIsMalformed := by
  intro s T more hs hp hok hcap hwrong h
  obtain ⟨hq, hpend, hstart, -⟩ := hs.locals
  have hcheck : tcCheck (s.headerRead T) = .raised ((s.headerRead T).raise .malformedTree) := by
    have hcoded := s.headerRead_coded hcap
    obtain hcount | hleaf := hwrong
    · refine tcCheck_of_count fun e => hcount ?_
      have hle := Tree.sentinels_le hcap
      have hval := congrArg BitVec.toNat e
      simp only [State.headerRead, BitVec.toNat_ofNat] at hval
      omega
    · cases T with
      | leaf symbol => exact tcCheck_of_leaf hcoded.holds
      | node l r => cases hleaf
  refine ⟨(s.headerRead T).raise .malformedTree, ?_, T.layout_length 0 0 0, ?_⟩
  · rw [exec_decBuild_of_header hs hp hok hcap h, decFinish, hcheck, Run.bind_raised, Run.outcome_raised]
  · simp [State.raise, State.dropLocals, State.headerRead, Status.failed, hq, hpend, hstart]

/-- Settles O45: the recursive parse from the empty arena runs out of it at the 514th token. -/
theorem headerBeyondTheArenaIsRejected : Obligations.HeaderBeyondTheArenaIsRejected := by
  intro s T more hs hp hok hcap h
  obtain ⟨-, hnodes, -⟩ := hs.idle_clean hp
  obtain ⟨hq, hpend, hstart, -⟩ := hs.locals
  have hN : (decStart s).nodeN = 0 := congrArg List.length hnodes
  obtain ⟨u, hu, hfull, hframe⟩ := parseRec_beyond (fuel := s.input.length + 1) (len := 0) (val := 0) (s := decStart s) h
    hok (by omega) (by omega) (by rw [h, List.length_append]; omega)
  rw [hN] at hframe
  refine ⟨u.raise .capacityExceeded, ?_, hfull, ?_⟩
  · rw [exec_decBuild_eq hs hp, hu, Run.bind_raised, Run.outcome_raised]
  · rw [hframe]
    simp [State.raise, State.dropLocals, State.skip, Status.failed, hq, hpend, hstart]

end Sys2Proof.Machine
end

section
/-! SUPPORT. The header TC.EXPORT writes for a tree (42_tree_codec.md R151, R152), and the tree it brings back
(42_tree_codec.md R160). -/

namespace Sys2Proof.Machine

/-! ### TC.EXPORT -/

/-- A literal leaf has two header bytes, every other node one (42_tree_codec.md R152). -/
theorem Tree.header_length (T : Tree) : T.header.length + T.sentinels = T.size + T.symbols.length := by
  induction T with
  | leaf symbol =>
    by_cases h : symbol = sentinel
    · rw [h]; rfl
    · rw [Tree.header_literal h, Tree.sentinels_literal h]; rfl
  | node l r ihl ihr =>
    rw [Tree.header, Tree.sentinels_node, Tree.size, Tree.symbols, List.length_cons, List.length_append, List.length_append]
    omega

/-- The header of a tree that fits the arena is counted by HDR_BYTES without loss (10_state.md R41). -/
theorem Tree.header_length_lt {T : Tree} (h : T.size ≤ nodeCap) : T.header.length < 1024 := by
  have hheader := T.header_length
  have hsize := T.size_eq
  rw [nodeCap] at h
  omega

theorem tcEmit_leaf {fuel : Nat} {i : Index} {s : State} {n : Node} {symbol : Symbol} (hn : s.node? i = some n)
    (hk : n.kind = .leaf symbol) : tcEmit (fuel + 1) i s = .go () (s.outWrite (Tree.leaf symbol).header) := by
  by_cases h : symbol = sentinel
  · simp [tcEmit, readNode_eq hn, hk, h, Tree.header_sentinel, markerZ]
  · simp [tcEmit, readNode_eq hn, hk, h, Tree.header_literal h, markerC, symbolByte]

theorem tcEmit_node {fuel : Nat} {i l r : Index} {s : State} {n : Node} (hn : s.node? i = some n)
    (hk : n.kind = .internal (some l) (some r)) :
    tcEmit (fuel + 1) i s = (tcEmit fuel l (s.outWrite [0x4E#8])).bind fun _ u => tcEmit fuel r u := by
  simp [tcEmit, readNode_eq hn, hk, markerN]

theorem State.outWrite_outWrite (a b : List Byte) (s : State) : (s.outWrite a).outWrite b = s.outWrite (a ++ b) := by
  simp [State.outWrite]

/-- `emit` of a tree no deeper than its fuel writes the tree's header (42_tree_codec.md R150, R151). -/
theorem tcEmit_of_holds {T : Tree} {fuel : Nat} {i : Index} {s : State} (h : Holds s.nodes i T) (hf : T.height < fuel) :
    tcEmit fuel i s = .go () (s.outWrite T.header) := by
  induction T generalizing fuel i s with
  | leaf symbol =>
    obtain ⟨fuel, rfl⟩ := Nat.exists_eq_add_one_of_ne_zero (Nat.ne_of_gt hf)
    cases h with
    | leaf hn hk => exact tcEmit_leaf hn hk
  | node a b iha ihb =>
    obtain ⟨fuel, rfl⟩ := Nat.exists_eq_add_one_of_ne_zero (Nat.ne_of_gt (Nat.zero_lt_of_lt hf))
    rw [Tree.height] at hf
    cases h with
    | node hn hk ha hb =>
      rw [tcEmit_node hn hk, iha (s := s.outWrite _) ha (by omega), Run.bind_go, State.outWrite_outWrite,
        ihb (s := s.outWrite _) hb (by omega), State.outWrite_outWrite]
      rfl

theorem tcExport_of_holds {T : Tree} {s : State} (h : Holds s.nodes s.root T) (hh : T.height ≤ codeMax) :
    tcExport s = .go () (s.outWrite T.header) := tcEmit_of_holds h (Nat.lt_succ_of_le hh)

/-- ENC_EXPORT writes the header of the tree held (44_encoder_commands.md R193). -/
theorem exec_encExport_of_holds {T : Tree} {s : State} (hp : s.status.phase = .treeBuilt) (h : Holds s.nodes s.root T)
    (hh : T.height ≤ codeMax) :
    exec .encExport s = .next (((s.setPhase .exporting).outWrite T.header).retOk .exporting) := by
  obtain ⟨-, e⟩ | ⟨hno, -⟩ := admitted_cases (s.status.phase = .treeBuilt) s encExportRun
  · refine e.trans ?_
    rw [encExportRun, tcExport_of_holds (s := s.setPhase .exporting) h hh, Run.bind_go, Run.outcome_go]
  · simp [hp] at hno

/-! ### The tree ENC_BUILD holds -/

/-- `visit` counts the header bytes of the tree (41_code_assigner.md R141). -/
theorem caVisit_hdrBytes {T : Tree} {fuel : Nat} {i : Index} {len val : Nat} {s u : State} (hT : Holds s.nodes i T)
    (h : caVisit fuel i len val s = .go () u) : u.hdrBytes = s.hdrBytes + BitVec.ofNat 10 T.header.length := by
  induction T generalizing fuel i len val s u with
  | leaf symbol =>
    cases fuel with
    | zero => cases h
    | succ fuel =>
      cases hT with
      | leaf hn hk =>
        rw [caVisit_leaf hn hk] at h
        cases h
        by_cases hs : symbol = sentinel
        · rw [hs]; rfl
        · rw [Tree.header_literal hs, caLeaf, if_neg hs]; rfl
  | node a b iha ihb =>
    cases fuel with
    | zero => cases h
    | succ fuel =>
      cases hT with
      | @node _ n _ _ _ _ hn hk ha hb =>
        rw [caVisit_node hn hk] at h
        obtain ⟨_, v, hv, h⟩ := Run.bind_eq_go h
        have hset {k w} (hw : Holds s.nodes k w) : Holds (s.nodes.set i.toNat (n.placed len val)) k w := hw.set hn rfl
        rw [ihb ((hset hb).of_caVisit hv) h, iha (hset ha) hv, Tree.header, List.length_cons, List.length_append,
          Nat.add_comm _ 1, ← Nat.add_assoc, BitVec.ofNat_add, BitVec.ofNat_add]
        simp only [BitVec.add_assoc]

theorem Tree.symbolsOk_of_perm {T : Tree} {u : State} (h : T.symbols.Perm (u.usedAmong (List.finRange 257))) :
    T.symbolsOk = true := by
  refine List.all_eq_true.mpr fun symbol hs => decide_eq_true ?_
  obtain ⟨c, -, rfl⟩ := List.mem_map.mp (h.mem_iff.mp hs)
  rw [BitVec.toNat_ofNat]
  exact (Nat.mod_le _ _).trans (Nat.le_of_lt_succ c.isLt)

theorem Tree.sentinels_of_perm {T : Tree} {u : State} (h : T.symbols.Perm (u.usedAmong (List.finRange 257))) :
    T.sentinels = 1 := by
  rw [Tree.sentinels, h.count_eq]
  refine List.count_eq_one_of_mem (u.usedAmong_nodup (List.nodup_finRange 257)) ?_
  exact List.mem_map_of_mem (State.mem_present.mpr ⟨List.mem_finRange sentinelSymbol, Nat.one_pos⟩)

/-- ENC_BUILD holds a tree that DEC_BUILD accepts, coded by places, and HDR_BYTES is the size of its header. -/
theorem Stages.acceptable {s u v w t : State} (h : Stages s u v w t) (hne : s.input ≠ []) :
    ∃ T, T.acceptable = true ∧ Coded t.nodes t.root T 0 0 ∧ t.hdrBytes = BitVec.ofNat 10 T.header.length := by
  obtain ⟨T, hT, hperm⟩ := tbBuild_holds h.empty h.build
  obtain ⟨hc, -⟩ := caAssign_coded hT (hperm.nodup_iff.mpr (u.usedAmong_nodup (List.nodup_finRange 257))) h.assign
  rw [← h.nodes, ← h.root] at hc
  have hbytes : t.hdrBytes = BitVec.ofNat 10 T.header.length := by
    rw [h.tail_frame]
    exact (caVisit_hdrBytes (s := { v with hdrBytes := 0#10, payloadBits := 0 }) hT h.assign).trans (BitVec.zero_add _)
  obtain ⟨l, r, hfull, hsize, hcap⟩ := h.fullTree hne
  obtain rfl := hc.holds.unique hfull.holds
  have hok := Tree.acceptable_iff.mpr ⟨Tree.symbolsOk_of_perm hperm, hsize ▸ hcap, Tree.sentinels_of_perm hperm, rfl⟩
  exact ⟨_, hok, hc, hbytes⟩

theorem encBuild_acceptable {s t : State} (hs : Inv s) (h : exec .encBuild s = .next t) (hl : t.status.last = .ok) :
    t.status.phase = .treeBuilt ∧
    ∃ T, T.acceptable = true ∧ Coded t.nodes t.root T 0 0 ∧ t.hdrBytes = BitVec.ofNat 10 T.header.length := by
  obtain ⟨hp, hgo⟩ := admitted_eq_go decide_eq_true_iff (encBuildRun_ends s) h hl
  obtain ⟨hne, hmax⟩ := input_of_encBuildRun_eq_go hgo
  obtain ⟨u, v, w, hst⟩ := encBuild_stages_of_next hs hp hne hmax h
  refine ⟨?_, hst.acceptable hne⟩
  have hends := encBuildRun_ends s
  rw [hgo] at hends
  cases hends with
  | go e => rw [e]; rfl

/-! ### The round trip -/

/-- Two arenas that hold a tree coded from the same place hold the same code at the end of every path. -/
theorem Coded.same_codes {nodes nodes' : List Node} {i i' j j' : Index} {T : Tree} {len val : Nat} {path : List Bool}
    (h : Coded nodes i T len val) (h' : Coded nodes' i' T len val) (hj : follow nodes i path = some j)
    (hj' : follow nodes' i' path = some j') : ∃ m n, nodes[j.toNat]? = some m ∧ nodes'[j'.toNat]? = some n ∧
      m.codeLen = n.codeLen ∧ m.codeVal = n.codeVal := by
  obtain ⟨-, m, hm, hml, hmv⟩ := h.of_follow hj
  obtain ⟨-, n, hn, hnl, hnv⟩ := h'.of_follow hj'
  exact ⟨m, n, hm, hn, hml.trans hnl.symm, hmv.trans hnv.symm⟩

theorem State.accepted_coded {T : Tree} (s : State) (hcap : T.size ≤ nodeCap) :
    Coded (s.accepted T).nodes (s.accepted T).root T 0 0 := s.headerRead_coded hcap

theorem State.accepted_tcExport {T : Tree} (s : State) (hcap : T.size ≤ nodeCap) :
    tcExport (s.accepted T) = .go () ((s.accepted T).outWrite T.header) :=
  tcExport_of_holds (s.accepted_coded hcap).holds (T.height_le_codeMax hcap)

/-- Settles O50: ENC_EXPORT writes the header of the tree held, and DEC_BUILD on it lays the same tree out again. -/
theorem headerRoundTrip : Obligations.HeaderRoundTrip := by
  refine ⟨fun s s1 s2 d more hs _ hbuild hlast hexport hd hdp hinput => ?_, fun d T more hd hdp hT hinput => ?_⟩
  · obtain ⟨hp1, T, hT, hcoded, hbytes⟩ := encBuild_acceptable hs hbuild hlast
    obtain ⟨-, hcap, -⟩ := Tree.acceptable_iff.mp hT
    have hh := T.height_le_codeMax hcap
    have hnat : s1.hdrBytes.toNat = T.header.length := by
      rw [hbytes, BitVec.toNat_ofNat, Nat.mod_eq_of_lt (Tree.header_length_lt hcap)]
    cases (exec_encExport_of_holds hp1 hcoded.holds hh).symm.trans hexport
    have hout : (((s1.setPhase .exporting).outWrite T.header).retOk .exporting).mem.out.drop s1.mem.out.length = T.header :=
      List.drop_left
    rw [hout] at hinput ⊢
    refine ⟨d.accepted T, T, exec_decBuild_of_acceptable hd hdp hT hinput, rfl, rfl,
      hcoded.holds.readTree_eq (Nat.lt_succ_of_le hh), State.accepted_tree? hcap, hbytes.symm, ?_,
      fun path i j hi hj => hcoded.same_codes (d.accepted_coded hcap) hi hj, d.accepted_tcExport hcap⟩
    rw [hnat]
    rfl
  · obtain ⟨-, hcap, -⟩ := Tree.acceptable_iff.mp hT
    exact ⟨d.accepted T, exec_decBuild_of_acceptable hd hdp hT hinput, d.accepted_tcExport hcap⟩

end Sys2Proof.Machine
end

section
/-! SUPPORT. The payload words of a bit string (30_encoding.md R98): what the words of a string are whose last word is still
short, and the string back from its words. -/

namespace Sys2Proof

theorem Config.W_pos (c : Config) : 0 < c.W := Nat.lt_of_lt_of_le (by decide) c.W_legal.1

end Sys2Proof

namespace Sys2Proof.Machine

/-! ### The words of a growing string -/

/-- A code, like a word, is its top bit and then the bits below (20_memory.md R69; 30_encoding.md R99). -/
theorem wordBits_succ (k w : Nat) : wordBits (k + 1) w = w.testBit k :: wordBits k w := by
  simp only [wordBits, List.range_succ_eq_map, List.map_cons, List.map_map, Nat.add_sub_cancel, Nat.sub_zero]
  refine congrArg _ (List.map_congr_left fun j _ => ?_)
  simp only [Function.comp_apply, Nat.succ_eq_add_one]
  rw [Nat.sub_sub, Nat.add_comm 1 j]

@[simp] theorem wordBits_length (W w : Nat) : (wordBits W w).length = W := by simp [wordBits]

@[simp] theorem bitsNat_nil : bitsNat [] = 0 := rfl

theorem bitsNat_zeros_below (bits : List Bool) (n : Nat) : bitsNat (bits ++ List.replicate n false) = bitsNat bits * 2 ^ n := by
  induction n with
  | zero => simp
  | succ n ih =>
    rw [List.replicate_succ', ← List.append_assoc, bitsNat_append_singleton, ih, Nat.pow_succ, Bool.toNat_false]
    ring

/-- A word that lies whole in the front of a string does not see what follows. -/
theorem wordAt_append_left {W k : Nat} {front more : List Bool} (h : (k + 1) * W ≤ front.length) :
    wordAt W (front ++ more) k = wordAt W front k := by
  refine congrArg bitsNat (List.map_congr_left fun j hj => ?_)
  have hj := List.mem_range.mp hj
  rw [Nat.succ_mul] at h
  rw [List.getElem?_append_left (by omega)]

/-- The last word of a string is left-justified (43_bit_packer_unpacker.md R174). -/
theorem wordAt_append_right {W k : Nat} {whole part : List Bool} (hwhole : whole.length = k * W) (hpart : part.length ≤ W) :
    wordAt W (whole ++ part) k = bitsNat part * 2 ^ (W - part.length) := by
  rw [← bitsNat_zeros_below]
  refine congrArg bitsNat (List.ext_getElem (by simp; omega) fun j hj _ => ?_)
  rw [List.getElem_map, List.getElem_range, List.getElem?_append_right (by omega), hwhole, Nat.add_sub_cancel_left,
    List.getElem_append]
  split
  next hlt => simp [List.getElem?_eq_getElem hlt]
  next hge => simp [List.getElem?_eq_none (Nat.le_of_not_lt hge)]

theorem wordCount_whole {W n : Nat} (hW : 0 < W) : wordCount W (n * W) = n := by
  rw [wordCount, Nat.add_sub_assoc hW, Nat.mul_comm, Nat.mul_add_div hW, Nat.div_eq_of_lt (by omega), Nat.add_zero]

theorem wordCount_whole_add {W n k : Nat} (hk : 0 < k) (hkW : k ≤ W) : wordCount W (n * W + k) = n + 1 := by
  have hW := hk.trans_le hkW
  rw [wordCount, show n * W + k + W - 1 = W * (n + 1) + (k - 1) by rw [Nat.mul_succ, Nat.mul_comm W n]; omega,
    Nat.mul_add_div hW, Nat.div_eq_of_lt (by omega), Nat.add_zero]

theorem payloadWords_eq (W : Nat) (bits : List Bool) :
    payloadWords W bits = (List.range (wordCount W bits.length)).map (wordAt W bits) := rfl

/-- A string one word or a part of one longer has one payload word more. -/
theorem payloadWords_append {W n : Nat} {whole part : List Bool} (hwhole : whole.length = n * W) (hpos : 0 < part.length)
    (hpart : part.length ≤ W) :
    payloadWords W (whole ++ part) = payloadWords W whole ++ [bitsNat part * 2 ^ (W - part.length)] := by
  rw [payloadWords_eq, payloadWords_eq, List.length_append, hwhole, wordCount_whole_add hpos hpart,
    wordCount_whole (hpos.trans_le hpart), List.range_succ, List.map_append, List.map_singleton,
    wordAt_append_right hwhole hpart]
  congr 1
  refine List.map_congr_left fun k hk => wordAt_append_left ?_
  rw [hwhole]
  exact Nat.mul_le_mul_right W (List.mem_range.mp hk)

theorem payloadBytes_append {c : Config} {n : Nat} {whole part : List Bool} (hwhole : whole.length = n * c.W)
    (hpos : 0 < part.length) (hpart : part.length ≤ c.W) :
    payloadBytes c (whole ++ part) = payloadBytes c whole ++ wordBytes c (bitsNat part * 2 ^ (c.W - part.length)) := by
  simp [payloadBytes, payloadWords_append hwhole hpos hpart]

@[simp] theorem payloadBytes_nil (c : Config) : payloadBytes c [] = [] := by
  have := wordCount_whole (n := 0) c.W_pos
  simp only [Nat.zero_mul] at this
  simp [payloadBytes, payloadWords_eq, this]

end Sys2Proof.Machine
end

section
/-! SUPPORT. The Bit Packer as one law (43_bit_packer_unpacker.md R175): after any pushes OUT holds the whole words of the bits
pushed and ACC the bits left over, which BP.FLUSH writes as the last word. -/

namespace Sys2Proof.Machine

/-- The packer started in `s`, with the words of `whole` written and the bits of `part` in ACC. -/
def State.packed (whole part : List Bool) (s : State) : State :=
  { s with
    acc := bitsNat part
    cnt := part.length
    mem := { s.mem with out := s.mem.out ++ payloadBytes s.cfg whole } }

/-- The packer started in `s` has been pushed the bits and stands in `u` (43_bit_packer_unpacker.md R172, R175). -/
def Packed (s : State) (bits : List Bool) (u : State) : Prop :=
  ∃ whole part n, bits = whole ++ part ∧ whole.length = n * s.cfg.W ∧ part.length < s.cfg.W ∧ u = s.packed whole part

theorem packed_bpReset (s : State) : Packed s [] (bpReset s) :=
  ⟨[], [], 0, rfl, (Nat.zero_mul _).symm, s.cfg.W_pos, by simp [State.packed, bpReset]⟩

theorem Packed.pushBit {s u : State} {bits : List Bool} (h : Packed s bits u) (b : Bool) :
    Packed s (bits ++ [b]) (bpPushBit b u) := by
  obtain ⟨whole, part, n, rfl, hwhole, hpart, rfl⟩ := h
  have hlen : (part ++ [b]).length = part.length + 1 := List.length_append
  have hacc : 2 * bitsNat part + b.toNat = bitsNat (part ++ [b]) := (bitsNat_append_singleton part b).symm
  rw [List.append_assoc]
  unfold bpPushBit
  split
  next hfull =>
    replace hfull : part.length + 1 = s.cfg.W := hfull
    refine ⟨whole ++ (part ++ [b]), [], n + 1, (List.append_nil _).symm, ?_, ?_, ?_⟩
    · rw [List.length_append, hlen, hfull, hwhole, Nat.succ_mul]
    · exact s.cfg.W_pos
    · simp [State.packed, bpReset, State.outWriteWord, State.outWrite, hacc,
        payloadBytes_append hwhole (hlen ▸ Nat.succ_pos _) (hlen.trans hfull).le, hlen, hfull]
  next hroom =>
    replace hroom : part.length + 1 ≠ s.cfg.W := hroom
    exact ⟨whole, part ++ [b], n, rfl, hwhole, by omega, by simp [State.packed, hacc]⟩

/-- BP.PUSH pushes the code's bits, most significant first (43_bit_packer_unpacker.md R173). -/
theorem Packed.push {s u : State} {bits : List Bool} (h : Packed s bits u) (len : Nat) (val : BitVec 256) :
    Packed s (bits ++ wordBits len val.toNat) (bpPush len val u) := by
  induction len generalizing bits u with
  | zero => simpa [bpPush, wordBits] using h
  | succ k ih =>
    have hnext := ih (h.pushBit (val.getLsbD k))
    rwa [List.append_assoc, List.singleton_append, BitVec.getLsbD, ← wordBits_succ] at hnext

theorem Packed.pushes {s u : State} {bits : List Bool} (h : Packed s bits u) (codes : List (Nat × BitVec 256)) :
    Packed s (bits ++ codes.flatMap fun c => wordBits c.1 c.2.toNat) (codes.foldl (fun u c => bpPush c.1 c.2 u) u) := by
  induction codes generalizing bits u with
  | nil => simpa using h
  | cons c codes ih =>
    rw [List.flatMap_cons, ← List.append_assoc]
    exact ih (h.push c.1 c.2)

/-- BP.FLUSH completes the payload (43_bit_packer_unpacker.md R174). -/
theorem Packed.flush {s u : State} {bits : List Bool} (h : Packed s bits u) :
    bpFlush u = { s with
      acc := 0
      cnt := 0
      mem := { s.mem with out := s.mem.out ++ payloadBytes s.cfg bits } } := by
  obtain ⟨whole, part, n, rfl, hwhole, hpart, rfl⟩ := h
  obtain ⟨hcnt, e⟩ | ⟨hcnt, e⟩ := bpFlush_cases (s.packed whole part)
  · obtain rfl : part = [] := List.length_eq_zero_iff.mp hcnt
    rw [e]
    simp [State.packed]
  · have hshift : bitsNat part <<< (s.cfg.W - part.length) % 2 ^ s.cfg.W = bitsNat part * 2 ^ (s.cfg.W - part.length) := by
      rw [Nat.shiftLeft_eq]
      refine Nat.mod_eq_of_lt ?_
      calc bitsNat part * 2 ^ (s.cfg.W - part.length)
          < 2 ^ part.length * 2 ^ (s.cfg.W - part.length) := Nat.mul_lt_mul_of_pos_right (bitsNat_lt part) (Nat.two_pow_pos _)
        _ = 2 ^ s.cfg.W := by rw [← Nat.pow_add, Nat.add_sub_cancel' hpart.le]
    rw [e]
    simp [State.packed, bpReset, State.outWriteWord, State.outWrite, hshift, payloadBytes_append hwhole hcnt hpart.le]

/-- Settles O39: after every push the whole words stand in OUT and the rest in ACC, and the flush writes the rest. -/
theorem packerWritesTheBitString : Obligations.PackerWritesTheBitString :=
  fun s codes => ((packed_bpReset s).pushes codes).flush

end Sys2Proof.Machine
end

section
/-! SUPPORT. The bits of a payload read back are the string itself and padding (43_bit_packer_unpacker.md R180, R182). -/

namespace Sys2Proof.Machine

/-- Reading words from a byte sequence: the first word's bits, then the rest's (20_memory.md R63). -/
theorem streamBits_of_le {c : Config} {bytes : List Byte} (h : c.WB ≤ bytes.length) :
    streamBits c bytes = wordBits c.W (bytesWord c (bytes.take c.WB)) ++ streamBits c (bytes.drop c.WB) := by
  have hdiv : bytes.length / c.WB = (bytes.drop c.WB).length / c.WB + 1 := by
    rw [List.length_drop, ← Nat.add_div_right _ c.WB_pos, Nat.sub_add_cancel h]
  rw [streamBits, streamBits, hdiv, List.range_succ_eq_map, List.flatMap_cons, List.flatMap_map, Nat.zero_mul, List.drop_zero]
  simp only [Nat.succ_eq_add_one, List.drop_drop, Nat.succ_mul, Nat.add_comm c.WB]

theorem streamBits_of_lt {c : Config} {bytes : List Byte} (h : bytes.length < c.WB) : streamBits c bytes = [] := by
  simp [streamBits, Nat.div_eq_of_lt h]

/-- Words that fit W bits are read back bit by bit. -/
theorem streamBits_wordBytes {c : Config} {words : List Nat} (hwords : ∀ w ∈ words, w < 2 ^ c.W) (more : List Byte) :
    streamBits c (words.flatMap (wordBytes c) ++ more) = words.flatMap (wordBits c.W) ++ streamBits c more := by
  induction words with
  | nil => rfl
  | cons w words ih =>
    obtain ⟨hw, hwords⟩ := List.forall_mem_cons.mp hwords
    have hlen := wordBytes_length c w
    rw [List.flatMap_cons, List.flatMap_cons, List.append_assoc, List.append_assoc, ← ih hwords,
      streamBits_of_le (by rw [List.length_append]; omega), List.take_left' hlen, List.drop_left' hlen,
      bytesWord_wordBytes c hw]

theorem wordAt_lt (W : Nat) (bits : List Bool) (k : Nat) : wordAt W bits k < 2 ^ W :=
  (bitsNat_lt _).trans_eq (by simp)

theorem wordBits_wordAt (W : Nat) (bits : List Bool) (k : Nat) :
    wordBits W (wordAt W bits k) = (List.range W).map fun j => (bits[k * W + j]?).getD false := by
  refine List.ext_getElem (by simp) fun j hj hj' => ?_
  have hbit := testBit_bitsNat _ hj'
  rw [List.length_map, List.length_range] at hbit
  rw [← hbit]
  simp only [wordBits, wordAt, List.getElem_map, List.getElem_range]

/-- The words' bits are the string from its first bit on, zeros past its end. -/
theorem flatMap_wordBits_wordAt (W : Nat) (bits : List Bool) (n : Nat) :
    ((List.range n).map (wordAt W bits)).flatMap (wordBits W) = (List.range (n * W)).map fun i => (bits[i]?).getD false := by
  induction n with
  | zero => simp
  | succ n ih =>
    rw [List.range_succ, List.map_append, List.flatMap_append, ih, Nat.succ_mul, List.range_add, List.map_append]
    simp [wordBits_wordAt, Function.comp_def]

theorem le_wordCount_mul {W : Nat} (hW : 0 < W) (k : Nat) : k ≤ wordCount W k * W := by
  have hdiv := Nat.div_add_mod (k + W - 1) W
  have hmod := Nat.mod_lt (k + W - 1) hW
  rw [wordCount, Nat.mul_comm]
  omega

theorem payloadWords_bits {W : Nat} (hW : 0 < W) (bits : List Bool) :
    ∃ pad, (payloadWords W bits).flatMap (wordBits W) = bits ++ pad := by
  refine ⟨((List.range (wordCount W bits.length * W)).map fun i => (bits[i]?).getD false).drop bits.length, ?_⟩
  rw [payloadWords_eq, flatMap_wordBits_wordAt]
  have hle := le_wordCount_mul hW bits.length
  refine (List.take_append_drop bits.length _).symm.trans (congrArg (· ++ _) ?_)
  exact List.ext_getElem (by simp; omega) fun i _ hi => by simp [List.getElem?_eq_getElem hi]

/-- What a decoder reads of a payload begins with the payload's bits, whatever follows it. -/
theorem streamBits_payloadBytes (c : Config) (bits : List Bool) (more : List Byte) :
    ∃ tail, streamBits c (payloadBytes c bits ++ more) = bits ++ tail := by
  have hwords : ∀ w ∈ payloadWords c.W bits, w < 2 ^ c.W := by
    intro w hw
    obtain ⟨k, -, rfl⟩ := List.mem_map.mp hw
    exact wordAt_lt c.W bits k
  obtain ⟨pad, hpad⟩ := payloadWords_bits c.W_pos bits
  exact ⟨pad ++ streamBits c more, by rw [payloadBytes, streamBits_wordBytes hwords, hpad, List.append_assoc]⟩

end Sys2Proof.Machine
end

section
/-! SUPPORT. The reference walk on the codes of a tree: each code leads to its own leaf (43_bit_packer_unpacker.md R176). -/

namespace Sys2Proof.Machine

/-- The walk that has come to a sub-tree: a literal leaf is emitted and the walk goes on at the root, the sentinel ends it
(43_bit_packer_unpacker.md R176). -/
def Tree.arrive (root child : Tree) (bits : List Bool) : List Byte × Option (List Bool) :=
  match child with
  | .leaf symbol =>
    if symbol = sentinel then ([], some bits)
    else (symbol.setWidth 8 :: (decodeBits root root bits).1, (decodeBits root root bits).2)
  | .node l r => decodeBits root (.node l r) bits

theorem decodeBits_cons (root l r : Tree) (b : Bool) (bits : List Bool) :
    decodeBits root (.node l r) (b :: bits) = root.arrive (if b then r else l) bits := by
  rw [decodeBits]
  cases (if b then r else l) <;> rfl

theorem Tree.arrive_sentinel (root : Tree) (bits : List Bool) : root.arrive (.leaf sentinel) bits = ([], some bits) :=
  by simp [Tree.arrive]

theorem Tree.arrive_literal (root : Tree) {symbol : Symbol} (h : symbol ≠ sentinel) (bits : List Bool) :
    root.arrive (.leaf symbol) bits =
      (symbol.setWidth 8 :: (decodeBits root root bits).1, (decodeBits root root bits).2) := if_neg h

theorem Tree.arrive_isNode (root : Tree) {t : Tree} (h : t.isNode = true) (bits : List Bool) :
    root.arrive t bits = decodeBits root t bits := by
  cases t with
  | leaf => cases h
  | node l r => rfl

/-- A leaf's path leads the walk to the leaf. -/
theorem Tree.arrive_of_mem_codes (root : Tree) {t : Tree} {symbol : Symbol} {path : List Bool} (h : (symbol, path) ∈ t.codes)
    (more : List Bool) : root.arrive t (path ++ more) = root.arrive (.leaf symbol) more := by
  induction t generalizing path with
  | leaf =>
    cases List.mem_singleton.mp h
    rfl
  | node l r ihl ihr =>
    obtain hleft | hright := List.mem_append.mp h
    · obtain ⟨c, hc, e⟩ := List.mem_map.mp hleft
      cases e
      exact (decodeBits_cons root l r false _).trans (ihl hc)
    · obtain ⟨c, hc, e⟩ := List.mem_map.mp hright
      cases e
      exact (decodeBits_cons root l r true _).trans (ihr hc)

/-- The walk over the codes of literals and then the sentinel's emits the literals and stops behind the sentinel's code. -/
theorem decodeBits_codes {T : Tree} (hT : T.isNode = true) {picks : List (Symbol × List Bool)} {stop : List Bool}
    (hpicks : ∀ c ∈ picks, c ∈ T.codes ∧ c.1 ≠ sentinel) (hstop : (sentinel, stop) ∈ T.codes) (more : List Bool) :
    decodeBits T T (picks.flatMap (·.2) ++ stop ++ more) = (picks.map fun c => c.1.setWidth 8, some more) := by
  rw [← T.arrive_isNode hT]
  induction picks with
  | nil => exact (T.arrive_of_mem_codes hstop more).trans (T.arrive_sentinel more)
  | cons c picks ih =>
    obtain ⟨⟨hc, hliteral⟩, hpicks⟩ := List.forall_mem_cons.mp hpicks
    rw [List.flatMap_cons, List.append_assoc, List.append_assoc, T.arrive_of_mem_codes hc, T.arrive_literal hliteral,
      ← T.arrive_isNode hT, ← List.append_assoc, ih hpicks]
    rfl

theorem decodeBits_left_le {root t : Tree} {bits left : List Bool} (h : (decodeBits root t bits).2 = some left) :
    left.length ≤ bits.length := by
  induction bits generalizing t with
  | nil => cases t <;> cases h
  | cons b bits ih =>
    rw [List.length_cons]
    cases t with
    | leaf => cases h
    | node l r =>
      rw [decodeBits_cons] at h
      cases hchild : (if b then r else l) with
      | leaf symbol =>
        rw [hchild] at h
        by_cases hs : symbol = sentinel
        · rw [hs, Tree.arrive_sentinel] at h
          cases h
          omega
        · rw [Tree.arrive_literal _ hs] at h
          exact (ih h).trans (Nat.le_succ _)
      | node l' r' =>
        rw [hchild] at h
        exact (ih (t := .node l' r') h).trans (Nat.le_succ _)

end Sys2Proof.Machine
end

section
/-! SUPPORT. The Bit Unpacker walks as the reference walk does, bit by bit, word by word, to the sentinel
(43_bit_packer_unpacker.md R178, R179). -/

namespace Sys2Proof.Machine

/-- The unpacker started in `s`, with `n` bytes of IN read, the literals `out` written and its three registers moved on
(43_bit_packer_unpacker.md R177 to R179). -/
def State.walked (n word mask : Nat) (cur : Index) (out : List Byte) (s : State) : State :=
  { s with
    word := word
    mask := mask
    cur := cur
    mem := ⟨s.mem.data, s.mem.pos + n, s.mem.out ++ out⟩ }

@[simp] theorem State.walked_walked (n w m : Nat) (c : Index) (out : List Byte) (n' w' m' : Nat) (c' : Index)
    (out' : List Byte) (s : State) :
    (s.walked n w m c out).walked n' w' m' c' out' = s.walked (n + n') w' m' c' (out ++ out') := by
  simp [State.walked, Nat.add_assoc]

theorem State.walked_same {s : State} (h : s.mask = 0) : s.walked 0 s.word 0 s.cur [] = s := by
  cases s
  cases h
  simp [State.walked]

theorem State.walked_rest (n w m : Nat) (c : Index) (out : List Byte) (s : State) :
    (s.walked n w m c out).mem.rest = s.mem.rest.drop n := List.drop_drop.symm

/-! ### One bit -/

theorem buArrive_sentinel {n : Node} (h : n.kind = .leaf sentinel) (s : State) : buArrive n s = .go true s := by
  simp [buArrive, h]

theorem buArrive_literal {n : Node} {symbol : Symbol} (h : n.kind = .leaf symbol) (hs : symbol ≠ sentinel) (s : State) :
    buArrive n s = .go false (s.walked 0 s.word s.mask s.root [symbol.setWidth 8]) := by
  simp [buArrive, h, hs, State.outWrite, State.walked, symbolByte]

theorem buArrive_internal {n : Node} {l r : Option Index} (h : n.kind = .internal l r) (s : State) :
    buArrive n s = .go false s := by
  simp [buArrive, h]

/-- BU.STEP at the root of a sub-tree goes to the child the bit chooses. -/
theorem buStep_of_holds {s : State} {l r : Tree} {b : Bool} (h : Holds s.nodes s.cur (.node l r))
    (hb : decide (s.word &&& s.mask ≠ 0) = b) :
    ∃ c n, s.node? c = some n ∧ Holds s.nodes c (if b then r else l) ∧
      buStep s = buArrive n (s.walked 0 s.word (s.mask >>> 1) c []) := by
  cases h with
  | @node _ n i j _ _ hn hk hl hr =>
    have hchild : Holds s.nodes (if b then j else i) (if b then r else l) := by cases b <;> assumption
    have hpick : (if b then some j else some i) = some (if b then j else i) := by cases b <;> rfl
    have hm : s.node? (if b then j else i) = some _ := List.getElem?_eq_getElem hchild.lt_length
    refine ⟨_, _, hm, hchild, ?_⟩
    have hread := readNode_eq (s := { s with mask := s.mask >>> 1, cur := if b then j else i }) hm
    simp only [buStep, readNode_eq hn, Run.bind_go, hk, hb, hpick, hread]
    simp [State.walked]

/-- MASK picks a bit of WORD (43_bit_packer_unpacker.md R178). -/
theorem decide_and_two_pow_ne_zero (w k : Nat) : decide (w &&& 2 ^ k ≠ 0) = w.testBit k := by
  rw [Nat.and_two_pow]
  cases w.testBit k <;> simp

theorem two_pow_succ_shiftRight_one (k : Nat) : 2 ^ (k + 1) >>> 1 = 2 ^ k := by
  rw [Nat.shiftRight_one, Nat.pow_succ, Nat.mul_div_cancel _ Nat.two_pos]

/-! ### The bits of a word -/

/-- A run of BU.STEP over `bits` from the sub-tree `t` follows the reference walk: to the sentinel, with the bits `left`
not walked, or to the sub-tree `t'` in which the walk of what comes after goes on. -/
def WalksAs (T t : Tree) (s : State) (bits : List Bool) (run : Run Bool) : Prop :=
  (∃ m c out left, left.length < bits.length ∧ run = .go true (s.walked 0 s.word m c out) ∧
    ∀ more, decodeBits T t (bits ++ more) = (out, some (left ++ more))) ∨
  (∃ c out t', t'.isNode = true ∧ Holds s.nodes c t' ∧ run = .go false (s.walked 0 s.word 0 c out) ∧
    ∀ more, decodeBits T t (bits ++ more) = (out ++ (decodeBits T t' more).1, (decodeBits T t' more).2))

/-- A bit that does not end the walk, before others. -/
theorem WalksAs.cons {T t t' : Tree} {s : State} {m : Nat} {c : Index} {out : List Byte} {b : Bool} {bits : List Bool}
    {run : Run Bool} (h : WalksAs T t' (s.walked 0 s.word m c out) bits run)
    (hb : ∀ more, decodeBits T t (b :: more) = (out ++ (decodeBits T t' more).1, (decodeBits T t' more).2)) :
    WalksAs T t s (b :: bits) run := by
  obtain ⟨m', c', out', left, hlen, hrun, hd⟩ | ⟨c', out', u, hu, hc, hrun, hd⟩ := h
  · refine .inl ⟨m', c', out ++ out', left, Nat.lt_succ_of_lt hlen, hrun.trans (by rw [State.walked_walked]; rfl),
      fun more => ?_⟩
    rw [List.cons_append, hb, hd]
  · refine .inr ⟨c', out ++ out', u, hu, hc, hrun.trans (by rw [State.walked_walked]; rfl), fun more => ?_⟩
    rw [List.cons_append, hb, hd, List.append_assoc]

/-- The walk over the k low bits of WORD, with MASK at the top one. -/
theorem buWalk_walksAs {T t : Tree} {s : State} {k : Nat} (hT : T.isNode = true) (hroot : Holds s.nodes s.root T)
    (ht : t.isNode = true) (hcur : Holds s.nodes s.cur t) (hmask : s.mask = 2 ^ k >>> 1) :
    WalksAs T t s (wordBits k s.word) (buWalk k s) := by
  induction k generalizing s t with
  | zero =>
    exact .inr ⟨s.cur, [], t, ht, hcur, by rw [buWalk, State.walked_same hmask], fun more => rfl⟩
  | succ k ih =>
    cases t with
    | leaf => cases ht
    | node l r =>
      have hm : s.mask = 2 ^ k := hmask.trans (two_pow_succ_shiftRight_one k)
      obtain ⟨c, n, hn, hc, hstep⟩ := buStep_of_holds hcur (hm ▸ decide_and_two_pow_ne_zero s.word k)
      have hwalk : buWalk (k + 1) s = (buArrive n (s.walked 0 s.word (2 ^ k >>> 1) c [])).bind fun stop u =>
          if stop then .go true u else buWalk k u := by
        rw [buWalk, if_neg (hm ▸ (Nat.two_pow_pos k).ne'), hstep, hm]
      have hd := decodeBits_cons T l r (s.word.testBit k)
      rw [wordBits_succ, hwalk]
      generalize (if s.word.testBit k then r else l) = child at hc hd
      cases hc with
      | @leaf _ n' symbol hn' hk =>
        cases hn.symm.trans hn'
        by_cases hs : symbol = sentinel
        · subst hs
          rw [buArrive_sentinel hk, Run.bind_go]
          exact .inl ⟨_, c, [], wordBits k s.word, by simp, rfl, fun more => (hd _).trans (T.arrive_sentinel _)⟩
        · rw [buArrive_literal hk hs, Run.bind_go, State.walked_walked]
          exact .cons (ih hroot hT hroot rfl) fun more => (hd more).trans (T.arrive_literal hs more)
      | @node _ n' _ _ a b hn' hk ha hb =>
        cases hn.symm.trans hn'
        rw [buArrive_internal hk, Run.bind_go]
        exact .cons (t' := .node a b) (ih hroot rfl (.node hn hk ha hb) rfl) fun more => hd more

/-! ### The words -/

/-- The unpacker with the next word of IN loaded (43_bit_packer_unpacker.md R177). -/
def State.loaded (s : State) : State :=
  s.walked s.cfg.WB (bytesWord s.cfg (s.mem.rest.take s.cfg.WB)) (2 ^ s.cfg.W >>> 1) s.cur []

theorem State.loaded_walked (w m : Nat) (c : Index) (out : List Byte) (s : State) :
    s.loaded.walked 0 w m c out = s.walked s.cfg.WB w m c out := State.walked_walked ..

theorem buLoad_of_le {s : State} (h : s.cfg.WB ≤ s.mem.rest.length) : buLoad s = .go () s.loaded := by
  have hmask : 1 <<< (s.cfg.W - 1) = 2 ^ s.cfg.W >>> 1 := by
    rw [Nat.one_shiftLeft, ← two_pow_succ_shiftRight_one, Nat.sub_add_cancel s.cfg.W_pos]
  obtain ⟨-, e⟩ | ⟨hlt, -⟩ := buLoad_cases s
  · rw [e, hmask]
    simp [State.loaded, State.walked]
  · omega

theorem buLoop_of_le {s : State} (fuel : Nat) (h : s.cfg.WB ≤ s.mem.rest.length) :
    buLoop (fuel + 1) s = (buWalk s.cfg.W s.loaded).bind fun stop u => if stop then .go () u else buLoop fuel u := by
  rw [buLoop, buLoad_of_le h]
  rfl

/-- The bits ahead are those of the word BU.LOAD takes and those after it. -/
theorem State.streamBits_loaded {s : State} (h : s.cfg.WB ≤ s.mem.rest.length) :
    streamBits s.cfg s.mem.rest = wordBits s.cfg.W s.loaded.word ++ streamBits s.cfg (s.mem.rest.drop s.cfg.WB) :=
  streamBits_of_le h

/-- Without a whole word there is no bit that could reach the sentinel. -/
theorem le_length_of_stop {c : Config} {bytes : List Byte} {T t : Tree} {out : List Byte} {left : List Bool}
    (h : decodeBits T t (streamBits c bytes) = (out, some left)) : c.WB ≤ bytes.length := by
  by_contra hlt
  rw [streamBits_of_lt (Nat.lt_of_not_le hlt)] at h
  cases t <;> cases h

theorem wordCount_add {W : Nat} (hW : 0 < W) (k : Nat) : wordCount W (W + k) = 1 + wordCount W k := by
  rw [wordCount, wordCount, show W + k + W - 1 = k + W - 1 + W by omega, Nat.add_div_right _ hW, Nat.add_comm]

/-- The words read by a walk that stops within the first of them. -/
theorem wordCount_of_stop {W more left : Nat} (h : left < W) : wordCount W (W + more - (left + more)) = 1 := by
  have hcount := wordCount_whole_add (n := 0) (show 0 < W - left by omega) (Nat.sub_le W left)
  rwa [Nat.zero_mul, Nat.zero_add, ← Nat.add_sub_add_right W more left] at hcount

/-- Where the reference walk over the words ahead comes to the sentinel, so does the decode loop, and it has read the words that
hold the bits walked (43_bit_packer_unpacker.md R179, R180). -/
theorem buLoop_of_stop {fuel : Nat} {s : State} {bytes : List Byte} {T t : Tree} {out : List Byte} {left : List Bool}
    (hT : T.isNode = true) (hroot : Holds s.nodes s.root T) (ht : t.isNode = true) (hcur : Holds s.nodes s.cur t)
    (hbytes : s.mem.rest = bytes) (hfuel : bytes.length < (fuel + 1) * s.cfg.WB)
    (hd : decodeBits T t (streamBits s.cfg bytes) = (out, some left)) :
    ∃ w m c, buLoop fuel s = .go ()
      (s.walked (s.cfg.WB * wordCount s.cfg.W ((streamBits s.cfg bytes).length - left.length)) w m c out) := by
  induction fuel generalizing s bytes t out left with
  | zero =>
    have hle := le_length_of_stop hd
    omega
  | succ fuel ih =>
    have hle := le_length_of_stop hd
    have hload : s.cfg.WB ≤ s.mem.rest.length := hbytes ▸ hle
    have hbits := s.streamBits_loaded hload
    rw [hbytes] at hbits
    rw [hbits] at hd ⊢
    rw [buLoop_of_le fuel hload, List.length_append, wordBits_length]
    obtain ⟨m, c, out', left', hlen, hrun, hword⟩ | ⟨c, out', t', ht', hc, hrun, hword⟩ :=
      buWalk_walksAs (s := s.loaded) (k := s.cfg.W) hT hroot ht hcur rfl
    · cases hd.symm.trans (hword _)
      rw [wordBits_length] at hlen
      refine ⟨s.loaded.word, m, c, ?_⟩
      rw [hrun, s.loaded_walked, List.length_append, wordCount_of_stop hlen, Nat.mul_one]
      rfl
    · rw [hword] at hd
      obtain ⟨rfl, hleft⟩ := Prod.mk.inj hd
      rw [s.loaded_walked] at hrun
      obtain ⟨w, m, c', hloop⟩ := ih (s := s.walked s.cfg.WB s.loaded.word 0 c out') hroot ht' hc
        ((s.walked_rest ..).trans (congrArg _ hbytes))
        (by
          rw [Nat.succ_mul] at hfuel
          rw [List.length_drop]
          exact Nat.sub_lt_right_of_lt_add hle hfuel)
        (Prod.ext rfl hleft)
      refine ⟨w, m, c', ?_⟩
      rw [hrun, Run.bind_go, Nat.add_sub_assoc (decodeBits_left_le hleft), wordCount_add s.cfg.W_pos, Nat.mul_add, Nat.mul_one]
      exact hloop.trans (congrArg (Run.go ()) (State.walked_walked ..))

/-! ### The command -/

/-- The tree DEC_BUILD took in has an Internal root (42_tree_codec.md R156). -/
theorem Inv.tree_isNode {s : State} {T : Tree} (hs : Inv s) (hp : s.status.phase = .ready) (hT : s.tree? = some T) :
    T.isNode = true := by
  obtain ⟨U, hU, hnode, -⟩ := hs.tree (hp ▸ rfl)
  rwa [Option.some_inj.mp (hT.symm.trans hU)]

/-- BU.RUN where the reference walk from ROOT comes to the sentinel. -/
theorem buRun_of_stop {s : State} {T : Tree} {out : List Byte} {left : List Bool} (hT : T.isNode = true)
    (hroot : Holds s.nodes s.root T) (hd : decodeBits T T (streamBits s.cfg s.input) = (out, some left)) :
    ∃ w m c, buRun s = .go ()
      (s.walked (s.cfg.WB * wordCount s.cfg.W ((streamBits s.cfg s.input).length - left.length)) w m c out) :=
  buLoop_of_stop (s := buStart s) hT hroot hT hroot rfl (Nat.lt_mul_of_div_lt (Nat.lt_succ_self _) s.cfg.WB_pos) hd

theorem exec_decDecode_eq {s : State} (hp : s.status.phase = .ready) : exec .decDecode s = (decDecodeRun s).outcome := by
  simp [exec, execDecDecode, admitted, hp]

/-- DEC_DECODE where the reference walk comes to the sentinel (45_decoder_commands.md R212). -/
theorem exec_decDecode_of_stop {s : State} {T : Tree} {out : List Byte} {left : List Bool} (hs : Inv s)
    (hp : s.status.phase = .ready) (hT : s.tree? = some T) (hd : decodeBits T T (streamBits s.cfg s.input) = (out, some left)) :
    ∃ w m c, exec .decDecode s = .next {
      s.walked (s.cfg.WB * wordCount s.cfg.W ((streamBits s.cfg s.input).length - left.length)) w m c out with
      status := s.status.passed .done } := by
  obtain ⟨hq, hpend, hstart, -⟩ := hs.locals
  obtain ⟨w, m, c, hrun⟩ := buRun_of_stop (s := s.setPhase .decoding) (hs.tree_isNode hp hT) (holds_of_readTree hT) hd
  refine ⟨w, m, c, ?_⟩
  rw [exec_decDecode_eq hp, decDecodeRun, hrun, Run.bind_go, Run.outcome_go]
  simp [State.walked, State.retOk, State.dropLocals, Status.passed, hq, hpend, hstart, State.input]

/-- Settles O58: the bits ahead begin with the codes of the literals and the sentinel's, and each code leads the walk to its
leaf. -/
theorem unpackerInvertsThePacker : Obligations.UnpackerInvertsThePacker := by
  intro s T picks stop more hs hp hT hpicks hstop hinput
  obtain ⟨tail, hbits⟩ := streamBits_payloadBytes s.cfg (picks.flatMap (·.2) ++ stop) more
  have hd := decodeBits_codes (hs.tree_isNode hp hT) hpicks hstop tail
  rw [← hbits, ← hinput] at hd
  obtain ⟨w, m, c, h⟩ := exec_decDecode_of_stop hs hp hT hd
  refine ⟨_, h, rfl, rfl, rfl, ?_⟩
  rw [hinput, hbits, List.length_append, Nat.add_sub_cancel]
  rfl

end Sys2Proof.Machine
end

section
/-! SUPPORT. The payload as bytes: how many it has, what of it depends on the parameters, and which of its words are whole
(30_encoding.md R98; 20_memory.md R70). -/

namespace Sys2Proof.Machine

theorem payloadBytes_length (c : Config) (bits : List Bool) :
    (payloadBytes c bits).length = c.WB * wordCount c.W bits.length := by
  simp [payloadBytes, payloadWords_eq, List.length_flatMap, wordBytes_length, Function.comp_def, Nat.mul_comm]

/-- The payload depends on W and the byte order, not on FW. -/
theorem payloadBytes_congr {c d : Config} (hW : c.W = d.W) (ho : c.order = d.order) : payloadBytes c = payloadBytes d := by
  have hbytes : wordBytes c = wordBytes d := by
    funext w
    rw [wordBytes_eq_arrange, wordBytes_eq_arrange, ho, Config.WB, Config.WB, hW]
  funext bits
  rw [payloadBytes, payloadBytes, hW, hbytes]

/-- The whole words of a string are the words of its front that fills them. -/
theorem payloadWords_take_whole {W n : Nat} {whole part : List Bool} (hwhole : whole.length = n * W) (hpart : part.length < W) :
    (payloadWords W (whole ++ part)).take ((whole ++ part).length / W) = payloadWords W whole := by
  have hW := Nat.zero_lt_of_lt hpart
  have hn : (whole ++ part).length / W = n := by
    rw [List.length_append, hwhole, Nat.mul_comm, Nat.mul_add_div hW, Nat.div_eq_of_lt hpart, Nat.add_zero]
  have hlen : (payloadWords W whole).length = n := by
    rw [payloadWords_eq, List.length_map, List.length_range, hwhole, wordCount_whole hW]
  rw [hn]
  obtain hzero | hpos := Nat.eq_zero_or_pos part.length
  · rw [List.length_eq_zero_iff.mp hzero, List.append_nil, List.take_of_length_le hlen.le]
  · rw [payloadWords_append hwhole hpos hpart.le, List.take_left' hlen]

end Sys2Proof.Machine
end

section
/-! SUPPORT. The packing loop of ENC_ENCODE: byte by byte the packer is pushed the codes that LEAF_OF leads to, up to the end of
IN or to the first byte without a code (44_encoder_commands.md R194, R196). -/

namespace Sys2Proof.Machine

/-- LEAF_OF leads to an entry of the arena. -/
def State.HasCode (s : State) (c : Fin 257) : Prop := ∃ i n, s.leafIndex c = some i ∧ s.node? i = some n

theorem State.leavesOk.hasCode {s : State} (h : s.leavesOk) {c : Fin 257} (hc : (s.leafIndex c).isSome = true) :
    s.HasCode c := by
  obtain ⟨hleaf, -⟩ := h
  obtain ⟨i, hi⟩ := Option.isSome_iff_exists.mp hc
  obtain ⟨n, hn, -⟩ := hleaf c i hi
  exact ⟨i, n, hi, hn⟩

/-- The code of a symbol is that of the entry LEAF_OF leads to. -/
theorem State.codeOf_eq {s : State} {c : Fin 257} {i : Index} {n : Node} (hi : s.leafIndex c = some i)
    (hn : s.node? i = some n) : s.codeOf c = n.codeBits := by
  simp only [State.codeOf, hi, hn, Node.codeBits]

/-- The codes are read from LEAF_OF and the arena alone. -/
theorem State.codeOf_congr {s t : State} (hleaf : t.leafOf = s.leafOf) (hnodes : t.nodes = s.nodes) (c : Fin 257) :
    t.codeOf c = s.codeOf c := by
  simp only [State.codeOf, State.leafIndex, State.node?, hleaf, hnodes]

@[simp] theorem State.setPhase_codeOf (p : Phase) (s : State) (c : Fin 257) : (s.setPhase p).codeOf c = s.codeOf c :=
  State.codeOf_congr rfl rfl c

/-! ### What the packer leaves alone -/

theorem Packed.skip {s u : State} {bits : List Bool} (h : Packed s bits u) (k : Nat) : Packed (s.skip k) bits (u.skip k) := by
  obtain ⟨whole, part, n, hbits, hwhole, hpart, rfl⟩ := h
  exact ⟨whole, part, n, hbits, hwhole, hpart, rfl⟩

theorem Packed.rest {s u : State} {bits : List Bool} (h : Packed s bits u) : u.mem.rest = s.mem.rest := by
  obtain ⟨whole, part, n, -, -, -, rfl⟩ := h
  rfl

theorem Packed.leafIndex {s u : State} {bits : List Bool} (h : Packed s bits u) (c : Fin 257) :
    u.leafIndex c = s.leafIndex c := by
  obtain ⟨whole, part, n, -, -, -, rfl⟩ := h
  rfl

theorem Packed.node? {s u : State} {bits : List Bool} (h : Packed s bits u) (i : Index) : u.node? i = s.node? i := by
  obtain ⟨whole, part, n, -, -, -, rfl⟩ := h
  rfl

/-- BP.RESET after some pushes leaves the whole words in OUT and drops the rest (44_encoder_commands.md R196). -/
theorem Packed.bpReset_eq {s u : State} {bits : List Bool} (h : Packed s bits u) :
    bpReset u = { s with
      acc := 0
      cnt := 0
      mem := { s.mem with out := s.mem.out ++
        ((payloadWords s.cfg.W bits).take (bits.length / s.cfg.W)).flatMap (wordBytes s.cfg) } } := by
  obtain ⟨whole, part, n, rfl, hwhole, hpart, rfl⟩ := h
  rw [payloadWords_take_whole hwhole hpart]
  rfl

/-! ### The loop -/

/-- A symbol with a code has it pushed (44_encoder_commands.md R194). -/
theorem Packed.pushCode {s u : State} {bits : List Bool} (h : Packed s bits u) {i : Index} {n : Node} (hn : s.node? i = some n) :
    ∃ v, pushCode i u = .go () v ∧ Packed s (bits ++ n.codeBits) v := by
  refine ⟨_, ?_, h.push n.codeLen.toNat n.codeVal⟩
  rw [Machine.pushCode, readNode_eq ((h.node? i).trans hn), Run.bind_go]

theorem Packed.encSymbol {s u : State} {bits : List Bool} (h : Packed s bits u) {b : Byte} (hc : s.HasCode (byteSymbol b)) :
    ∃ v, encSymbol b u = .go () v ∧ Packed s (bits ++ s.codeOf (byteSymbol b)) v := by
  obtain ⟨i, n, hi, hn⟩ := hc
  rw [Machine.encSymbol, h.leafIndex, hi, State.codeOf_eq hi hn]
  exact h.pushCode hn

theorem Packed.pushSentinel {s u : State} {bits : List Bool} (h : Packed s bits u) (hc : s.HasCode sentinelSymbol) :
    ∃ v, pushSentinel u = .go () v ∧ Packed s (bits ++ s.codeOf sentinelSymbol) v := by
  obtain ⟨i, n, hi, hn⟩ := hc
  rw [Machine.pushSentinel, h.leafIndex, hi, State.codeOf_eq hi hn]
  exact h.pushCode hn

theorem packLoop_of_cons {fuel : Nat} {u : State} {b : Byte} {l : List Byte} (h : u.mem.rest = b :: l) :
    packLoop (fuel + 1) u = (encSymbol b (u.skip 1)).bind fun _ v => packLoop fuel v := by
  rw [packLoop, State.inRead_of_cons h]

theorem encSymbol_of_none {b : Byte} {u : State} (h : u.leafIndex (byteSymbol b) = none) :
    encSymbol b u = .raised ((bpReset u).raise .noCode) := by
  rw [encSymbol, h, fail_eq]

/-- The loop over bytes that have codes pushes their codes and goes on behind them. -/
theorem Packed.packLoop {s u : State} {bits : List Bool} {before after : List Byte} (h : Packed s bits u)
    (hrest : s.mem.rest = before ++ after) (hc : ∀ b ∈ before, s.HasCode (byteSymbol b)) (fuel : Nat) :
    ∃ v, packLoop (before.length + fuel) u = packLoop fuel v ∧
      Packed (s.skip before.length) (bits ++ before.flatMap fun b => s.codeOf (byteSymbol b)) v := by
  induction before generalizing s u bits with
  | nil => exact ⟨u, by rw [List.length_nil, Nat.zero_add], by rw [List.flatMap_nil, List.append_nil]; exact h.skip 0⟩
  | cons b before ih =>
    obtain ⟨hb, hc⟩ := List.forall_mem_cons.mp hc
    obtain ⟨w, hw, hpack⟩ := (h.skip 1).encSymbol (b := b) hb
    obtain ⟨v, hv, hpack⟩ := ih hpack (State.skip_one_rest hrest) hc
    refine ⟨v, ?_, ?_⟩
    · rw [List.length_cons, Nat.succ_add, packLoop_of_cons (h.rest.trans hrest), hw, Run.bind_go, hv]
    · rw [State.skip_add, Nat.add_comm, List.append_assoc] at hpack
      exact hpack

/-! ### The command -/

theorem exec_encEncode_eq {s : State} (hp : s.status.phase = .exporting) : exec .encEncode s = (encEncodeRun s).outcome := by
  simp [exec, execEncEncode, admitted, hp]

/-- The state ENC_ENCODE ends in after an input whose bytes all have codes (44_encoder_commands.md R194). -/
def State.encoded (s : State) : State :=
  { s.dropLocals with
    acc := 0
    cnt := 0
    mem := ⟨s.mem.data, s.mem.pos + s.input.length,
      s.mem.out ++ payloadBytes s.cfg ((s.input.flatMap fun b => s.codeOf (byteSymbol b)) ++ s.codeOf sentinelSymbol)⟩
    status := s.status.passed .done }

theorem State.encoded_out (s : State) : s.encoded.mem.out = s.mem.out ++
    payloadBytes s.cfg ((s.input.flatMap fun b => s.codeOf (byteSymbol b)) ++ s.codeOf sentinelSymbol) := rfl

/-- ENC_ENCODE where every byte ahead has a code (44_encoder_commands.md R194). -/
theorem exec_encEncode_of_codes {s : State} (hp : s.status.phase = .exporting)
    (hc : ∀ b ∈ s.input, s.HasCode (byteSymbol b)) (hsent : s.HasCode sentinelSymbol) :
    exec .encEncode s = .next s.encoded := by
  obtain ⟨u, hu, hpack⟩ := (packed_bpReset (s.setPhase .packing)).packLoop (after := []) (List.append_nil s.input).symm hc 0
  obtain ⟨v, hv, hpack⟩ := hpack.pushSentinel hsent
  have hloop : packLoop s.mem.rest.length (bpReset (s.setPhase .packing)) = .go () u := hu
  rw [exec_encEncode_eq hp, encEncodeRun, hloop, Run.bind_go, hv, Run.bind_go, hpack.flush, Run.outcome_go]
  rfl

/-- ENC_ENCODE where a byte has no code (44_encoder_commands.md R196). -/
theorem exec_encEncode_of_noCode {s : State} {before after : List Byte} {b : Byte} (hp : s.status.phase = .exporting)
    (hinput : s.input = before ++ b :: after) (hc : ∀ x ∈ before, s.HasCode (byteSymbol x))
    (hb : s.leafIndex (byteSymbol b) = none) :
    let bits := before.flatMap fun x => s.codeOf (byteSymbol x)
    exec .encEncode s = .next { s.dropLocals with
      acc := 0
      cnt := 0
      mem := ⟨s.mem.data, s.mem.pos + before.length + 1,
        s.mem.out ++ ((payloadWords s.cfg.W bits).take (bits.length / s.cfg.W)).flatMap (wordBytes s.cfg)⟩
      status := s.status.failed .noCode } := by
  obtain ⟨u, hu, hpack⟩ := (packed_bpReset (s.setPhase .packing)).packLoop hinput hc (after.length + 1)
  have hloop : packLoop s.mem.rest.length (bpReset (s.setPhase .packing)) = packLoop (after.length + 1) u := by
    refine Eq.trans (congrArg (packLoop · _) ?_) hu
    exact (congrArg List.length hinput).trans List.length_append
  have hrest : u.mem.rest = b :: after := hpack.rest.trans (State.skip_rest (s := s.setPhase .packing) hinput)
  have hstop := encSymbol_of_none (((hpack.skip 1).leafIndex (byteSymbol b)).trans hb)
  rw [exec_encEncode_eq hp, encEncodeRun, hloop, packLoop_of_cons hrest, hstop, Run.bind_raised, Run.bind_raised,
    Run.outcome_raised, (hpack.skip 1).bpReset_eq]
  simp [State.raise, State.dropLocals, State.skip, Status.failed]

/-- Settles O41: the codes before the byte are pushed, and the byte without one drops what BP.PUSH has not yet written. -/
theorem byteWithoutCodeIsRejected : Obligations.ByteWithoutCodeIsRejected := by
  intro s before after b hs hp hinput hc hb
  obtain ⟨hq, hpend, hstart, hacc, hcnt⟩ := hs.locals
  rw [exec_encEncode_of_noCode hp hinput (fun x hx => (hs.leaves (.inr hp)).hasCode (hc x hx)) hb]
  simp [State.dropLocals, hq, hpend, hstart, hacc, hcnt]

end Sys2Proof.Machine
end

section
/-! SUPPORT. ENC_EXPORT on any tree held (44_encoder_commands.md R193; 42_tree_codec.md R152). -/

namespace Sys2Proof.Machine

theorem height_lt_of_readTree {fuel : Nat} {nodes : List Node} {i : Index} {T : Tree} (h : readTree fuel nodes i = some T) :
    T.height < fuel := by
  induction fuel generalizing i T with
  | zero => cases h
  | succ fuel ih =>
    cases holds_of_readTree h with
    | leaf => exact Nat.succ_pos fuel
    | node hn hk ha hb =>
      simp only [readTree, hn, hk] at h
      split at h
      next a' b' hta htb =>
        cases h
        exact Nat.succ_lt_succ (Nat.max_lt.mpr ⟨ih hta, ih htb⟩)
      next => cases h

theorem State.height_of_tree? {s : State} {T : Tree} (h : s.tree? = some T) : T.height ≤ codeMax :=
  Nat.le_of_lt_succ (height_lt_of_readTree h)

/-- Settles O38: a block in TreeBuilt holds a tree of which HDR_BYTES is the header's size, and TC.EXPORT writes that header. -/
theorem encExportWritesTheHeader : Obligations.EncExportWritesTheHeader := by
  intro s hs hp
  obtain ⟨hq, hpend, hstart, -⟩ := hs.locals
  obtain ⟨T, hT, -, hbytes⟩ := hs.tree (hp ▸ rfl)
  refine ⟨T, hT, hbytes.symm, ?_⟩
  rw [exec_encExport_of_holds hp (holds_of_readTree hT) (State.height_of_tree? hT)]
  simp [State.retOk, State.dropLocals, State.outWrite, State.setPhase, Status.passed, hq, hpend, hstart]

end Sys2Proof.Machine
end

section
/-! SUPPORT. How ENC_BUILD ends on a non-empty input, by the verdict of the gate or by a counter that is full
(44_encoder_commands.md R191, R192; 40_tree_builder.md R121). -/

namespace Sys2Proof.Machine

/-! ### The frame -/

/-- ENC_BUILD writes the stores of a build, the cursor, STATUS and what is transient, nothing else. -/
theorem Stages.frame {s u v w t : State} (h : Stages s u v w t) : t = { s with
    freq := t.freq, nodes := t.nodes, root := t.root, leafOf := t.leafOf
    inCount := s.input.length, hdrBytes := t.hdrBytes, payloadBits := t.payloadBits
    mem := { s.mem with pos := s.mem.pos + s.input.length }
    q := [], pend := [], hdrStart := 0
    status := t.status } := by
  rw [h.tail_frame, tbBuild_frame h.build, h.tallied.frame]
  rfl

/-- STATUS when the gate gives its verdict. -/
theorem Stages.status_assign {s u v w t : State} (h : Stages s u v w t) :
    w.status = { s.status with mode := .encoder, phase := .countingFrequencies } := by
  obtain ⟨hframe, -⟩ := caVisit_frame h.assign
  rw [hframe, tbBuild_frame h.build, h.tallied.frame]
  rfl

/-! ### The gate -/

/-- The encoded size is not smaller than the original's (44_encoder_commands.md R192). -/
def State.oversize (s : State) : Prop :=
  8 * s.inCount ≤ 8 * s.hdrBytes.toNat + s.cfg.W * wordCount s.cfg.W s.payloadBits

theorem State.notCompressible_iff (s : State) : s.notCompressible = true ↔ s.oversize := decide_eq_true_iff

/-- Everything the gate can do (44_encoder_commands.md R191, R192). -/
theorem encGate_cases (s : State) :
    (s.gateEn = true ∧ s.oversize ∧ encGate s = .raised (s.raise .notCompressible)) ∨
    (¬ (s.gateEn = true ∧ s.oversize) ∧ encGate s = .go () (s.retOk .treeBuilt)) := by
  have hiff : (s.gateEn && s.notCompressible) = true ↔ s.gateEn = true ∧ s.oversize := by
    rw [Bool.and_eq_true, s.notCompressible_iff]
  unfold encGate
  split
  next hgate =>
    obtain ⟨hen, hover⟩ := hiff.mp hgate
    exact .inl ⟨hen, hover, rfl⟩
  next hpass => exact .inr ⟨hiff.not.mp hpass, rfl⟩

/-- ENC_BUILD through its stages up to the gate. -/
theorem exec_encBuild_of_stages {s u v w : State} (hp : s.status.phase = .idle)
    (hu : tally s.mem.rest.length (stClear (s.enter .encoder .countingFrequencies)) = .go () u) (hcount : u.inCount ≠ 0)
    (hv : tbBuild u = .go () v) (hw : caAssign v = .go () w) :
    exec .encBuild s = (encGate (w.setPhase .treeBuilt)).outcome := by
  obtain ⟨-, e⟩ | ⟨hno, -⟩ := admitted_cases (s.status.phase = .idle) s encBuildRun
  · refine e.trans ?_
    rw [encBuildRun, hu, Run.bind_go, encTree, if_neg hcount, hv, Run.bind_go, hw, Run.bind_go]
  · simp [hp] at hno

/-- How ENC_BUILD ends on a non-empty input that the counters can hold: the build goes through, and the gate alone decides. -/
theorem encBuild_verdict {s : State} (hs : Inv s) (hp : s.status.phase = .idle) (hne : s.input ≠ [])
    (hmax : s.input.length ≤ s.cfg.maxCount) : ∃ u v w t, Stages s u v w t ∧ exec .encBuild s = .next t ∧
      ((s.gateEn = true ∧ t.oversize ∧ t.status = Status.failed { s.status with mode := .encoder } .notCompressible) ∨
       (¬ (s.gateEn = true ∧ t.oversize) ∧ t.status = Status.passed { s.status with mode := .encoder } .treeBuilt)) := by
  obtain ⟨-, hempty, -⟩ := hs.idle_clean hp
  obtain ⟨u, hu, htally⟩ := encBuild_tallied hmax
  have hnodes : u.nodes = [] := htally.nodes.trans hempty
  obtain ⟨v, hv, hbuilt⟩ := tbBuild_built hnodes
  obtain ⟨w, hw⟩ := caAssign_go hnodes hv
  have hcount : u.inCount ≠ 0 := htally.inCount.trans_ne fun h => hne (List.length_eq_zero_iff.mp h)
  have hexec := exec_encBuild_of_stages hp hu hcount hv hw
  obtain ⟨t, ht, hdone⟩ := encGate_next (w.setPhase .treeBuilt)
  have hst : Stages s u v w t := ⟨htally, hnodes, hv, hbuilt, hw, hdone⟩
  have hctrl : t.gateEn = s.gateEn := by rw [hst.frame]; rfl
  have hgate : (w.setPhase .treeBuilt).gateEn = s.gateEn := by rw [← hctrl, hdone]; rfl
  have hsize : (w.setPhase .treeBuilt).oversize ↔ t.oversize := by rw [hdone]; rfl
  have hstatus := hst.status_assign
  refine ⟨u, v, w, t, hst, hexec.trans ht, ?_⟩
  rw [← hgate, ← hsize]
  obtain ⟨hen, hover, e⟩ | ⟨hpass, e⟩ := encGate_cases (w.setPhase .treeBuilt) <;> rw [e] at ht <;> cases ht
  · exact .inl ⟨hen, hover, by simp [hstatus, Status.failed]⟩
  · exact .inr ⟨hpass, by simp [hstatus, Status.passed]⟩

/-- Settles O29: the two verdicts exclude each other. -/
theorem gateRejectsExactlyTheIncompressible : Obligations.GateRejectsExactlyTheIncompressible := by
  intro s hs hp hne hmax
  obtain ⟨u, v, w, t, hst, hexec, hverdict⟩ := encBuild_verdict hs hp hne hmax
  have hcfg : t.cfg = s.cfg := by rw [hst.frame]
  refine ⟨t, hexec, ?_⟩
  rw [← hcfg]
  change (_ ↔ s.gateEn = true ∧ t.oversize) ∧ (s.gateEn = false → _)
  obtain ⟨hen, hover, e⟩ | ⟨hpass, e⟩ := hverdict <;> rw [e]
  · simp [Status.failed, hen, hover]
  · exact ⟨iff_of_false (by simp [Status.passed]) hpass, fun _ => ⟨rfl, rfl⟩⟩

/-! ### The counters -/

/-- The tally of more bytes than the counters can hold ends at the byte too many (40_tree_builder.md R121). -/
theorem tally_raised {s : State} {l : List Byte} (hl : s.mem.rest = l) (hin : s.inCount ≤ s.cfg.maxCount)
    (h : s.cfg.maxCount < s.inCount + l.length) : ∃ u : State, tally l.length s = .raised (u.raise .counterOverflow) := by
  induction l generalizing s with
  | nil => exact absurd h (Nat.not_lt_of_le hin)
  | cons b l ih =>
    rw [List.length_cons] at h ⊢
    by_cases hfull : s.inCount = s.cfg.maxCount
    · refine ⟨s.skip 1, ?_⟩
      rw [tally, State.inRead_of_cons hl]
      exact congrArg (Run.bind · _) (if_pos hfull)
    · rw [tally_succ hl hfull]
      exact ih (s := s.counted b) (Memory.rest_succ hl) (Nat.lt_of_le_of_ne hin hfull)
        (by rw [State.counted_cfg, State.counted_inCount]; omega)

/-- ENC_BUILD of more bytes than the counters can hold (60_exceptions.md R248). -/
theorem exec_encBuild_of_overflow {s : State} (hp : s.status.phase = .idle) (h : s.cfg.maxCount < s.input.length) :
    ∃ u : State, exec .encBuild s = .next (u.raise .counterOverflow) := by
  obtain ⟨u, hu⟩ := tally_raised (s := stClear (s.enter .encoder .countingFrequencies)) (l := s.input) rfl (Nat.zero_le _)
    (by simpa using h)
  obtain ⟨-, e⟩ | ⟨hno, -⟩ := admitted_cases (s.status.phase = .idle) s encBuildRun
  · refine ⟨u, e.trans ?_⟩
    rw [encBuildRun, show s.mem.rest.length = s.input.length from rfl, hu, Run.bind_raised, Run.outcome_raised]
  · simp [hp] at hno

end Sys2Proof.Machine
end

section
/-! SUPPORT. The tree of ENC_BUILD as the packer and the decoder use it: LEAF_OF leads to the code of each symbol that occurs, and
PAYLOAD_BITS is the length of the input's codes (40_tree_builder.md R124 to R127; 41_code_assigner.md R141, R143). -/

namespace Sys2Proof.Machine

/-! ### The leaves of the arena -/

/-- The merges add Internal entries only (40_tree_builder.md R126). -/
theorem tbMergeAll_nodes {fuel : Nat} {s t : State} (h : tbMergeAll fuel s = .go () t) :
    ∃ more, t.nodes = s.nodes ++ more ∧ ∀ n ∈ more, n.isLeaf = false := by
  induction fuel generalizing s with
  | zero => cases h; exact ⟨[], (List.append_nil _).symm, nofun⟩
  | succ fuel ih =>
    unfold tbMergeAll at h
    split at h
    · obtain ⟨_, u, hu, h⟩ := Run.bind_eq_go h
      obtain ⟨a, b, freq, -, -, hnodes, -⟩ := tbMerge_eq_go hu
      obtain ⟨more, hmore, hinternal⟩ := ih h
      exact ⟨_ :: more, by rw [hmore, hnodes, List.append_assoc, List.singleton_append],
        List.forall_mem_cons.mpr ⟨rfl, hinternal⟩⟩
    · cases h; exact ⟨[], (List.append_nil _).symm, nofun⟩

/-- TB.BUILD leaves the leaves of TB.INIT, Internal entries behind them, and the LEAF_OF of TB.INIT. -/
theorem tbBuild_nodes {s t : State} (hs : s.nodes = []) (h : tbBuild s = .go () t) :
    (∃ more, t.nodes = (s.present (List.finRange 257)).map (fun c => newLeaf c (s.freqOf c)) ++ more ∧
      ∀ n ∈ more, n.isLeaf = false) ∧
    t.leafOf = (tbInit s).leafOf := by
  unfold tbBuild at h
  obtain ⟨_, u, hu, h⟩ := Run.bind_eq_go h
  have hleafOf : u.leafOf = (tbInit s).leafOf := by rw [tbMergeAll_frame hu]
  obtain ⟨more, hmore, hinternal⟩ := tbMergeAll_nodes hu
  rw [tbInit_nodes hs] at hmore
  split at h
  · cases h
    exact ⟨⟨more, hmore, hinternal⟩, hleafOf⟩
  · cases h

/-- A leaf that TB.BUILD leaves is that of a symbol of the table, with its frequency, and LEAF_OF leads to it
(10_state.md R28). -/
theorem tbBuild_leaf {s t : State} (hs : s.nodes = []) (h : tbBuild s = .go () t) {k : Nat} {n : Node} {symbol : Symbol}
    (hn : t.nodes[k]? = some n) (hk : n.kind = .leaf symbol) :
    ∃ c : Fin 257, symbol = BitVec.ofNat 9 c.val ∧ n.freq = s.freqOf c ∧ t.leafIndex c = some (BitVec.ofNat 10 k) := by
  obtain ⟨⟨more, hnodes, hinternal⟩, hleafOf⟩ := tbBuild_nodes hs h
  rw [hnodes] at hn
  by_cases hlt : k < (s.present (List.finRange 257)).length
  · rw [List.getElem?_append_left (by rwa [List.length_map]), List.getElem?_map, List.getElem?_eq_getElem hlt] at hn
    cases hn
    cases hk
    obtain ⟨-, hpos⟩ := State.mem_present.mp (List.getElem_mem hlt)
    refine ⟨_, rfl, rfl, ?_⟩
    have hindex : t.leafIndex = (tbInit s).leafIndex := by funext c; rw [State.leafIndex, hleafOf]; rfl
    rw [hindex, tbInit_leafIndex hs, if_pos hpos, (s.present_nodup (List.nodup_finRange 257)).idxOf_getElem]
  · rw [List.getElem?_append_right (by rw [List.length_map]; omega)] at hn
    have hleaf := hinternal n (List.mem_of_getElem? hn)
    rw [Node.isLeaf, hk] at hleaf
    cases hleaf

/-! ### Codes -/

theorem Tree.codes_symbols (T : Tree) : T.codes.map Prod.fst = T.symbols := by
  induction T with
  | leaf => rfl
  | node l r ihl ihr => simp [Tree.codes, Tree.symbols, Function.comp_def, ← ihl, ← ihr]

/-- The path to a leaf is followed to an entry of the leaf's symbol. -/
theorem Holds.follow_of_mem_codes {nodes : List Node} {i : Index} {T : Tree} (h : Holds nodes i T) {symbol : Symbol}
    {path : List Bool} (hp : (symbol, path) ∈ T.codes) :
    ∃ j n, follow nodes i path = some j ∧ nodes[j.toNat]? = some n ∧ n.kind = .leaf symbol := by
  induction h generalizing path with
  | leaf hn hk =>
    cases List.mem_singleton.mp hp
    exact ⟨_, _, if_pos (List.getElem?_eq_some_iff.mp hn).1, hn, hk⟩
  | node hn hk _ _ iha ihb =>
    rw [Tree.codes, List.mem_append, List.mem_map, List.mem_map] at hp
    obtain ⟨⟨_, path⟩, hp, e⟩ | ⟨⟨_, path⟩, hp, e⟩ := hp <;> cases e
    · obtain ⟨j, n, hf, hj⟩ := iha hp
      exact ⟨j, n, by simpa [follow, hn, hk] using hf, hj⟩
    · obtain ⟨j, n, hf, hj⟩ := ihb hp
      exact ⟨j, n, by simpa [follow, hn, hk] using hf, hj⟩

section Ends

variable {s u v w t : State} (h : Stages s u v w t)

include h

/-- A leaf of the arena ENC_BUILD leaves. -/
theorem Stages.leaf {k : Nat} {n : Node} {symbol : Symbol} (hn : t.nodes[k]? = some n) (hk : n.kind = .leaf symbol) :
    ∃ c : Fin 257, symbol = BitVec.ofNat 9 c.val ∧ n.freq = u.freqOf c ∧ t.leafIndex c = some (BitVec.ofNat 10 k) := by
  obtain ⟨n', hn', hkind, hfreq⟩ := entry_of_recoded h.recoded.symm hn
  obtain ⟨c, hc, hf, hi⟩ := tbBuild_leaf h.empty h.build hn' (hkind.trans hk)
  have hindex : t.leafIndex c = v.leafIndex c := by rw [h.tail_frame]; rfl
  exact ⟨c, hc, hfreq.symm.trans hf, hindex.trans hi⟩

/-- LEAF_OF leads to the code of a leaf of the tree. -/
theorem Stages.code_of_mem_codes {T : Tree} (hT : Coded t.nodes t.root T 0 0) (hh : T.height ≤ codeMax) {c : Fin 257}
    {path : List Bool} (hp : (BitVec.ofNat 9 c.val, path) ∈ T.codes) : t.HasCode c ∧ t.codeOf c = path := by
  obtain ⟨j, n, hf, hn, hk⟩ := hT.holds.follow_of_mem_codes hp
  obtain ⟨n', hn', -, -, hbits⟩ := hT.codes_are_paths hh hf
  cases hn.symm.trans hn'
  obtain ⟨c', hc, -, hi⟩ := h.leaf hn hk
  obtain rfl : c = c' := ofNat_symbol_injective (congrArg NodeKind.leaf hc)
  rw [BitVec.ofNat_toNat, BitVec.setWidth_eq] at hi
  exact ⟨⟨j, n, hi, hn⟩, (State.codeOf_eq hi hn).trans hbits⟩

end Ends

/-! ### Frequencies -/

theorem symbolByte_literalSymbol (b : Byte) : symbolByte (literalSymbol b) = b := by
  apply BitVec.eq_of_toNat_eq
  rw [symbolByte, BitVec.toNat_setWidth, literalSymbol_toNat, Nat.mod_eq_of_lt b.isLt]

theorem literalSymbol_injective : Function.Injective literalSymbol :=
  Function.LeftInverse.injective symbolByte_literalSymbol

theorem literalSymbol_ne_sentinel (b : Byte) : literalSymbol b ≠ sentinel := fun e =>
  Nat.ne_of_lt b.isLt ((literalSymbol_toNat b).symm.trans (congrArg BitVec.toNat e))

/-- A symbol below the sentinel is a literal's. -/
theorem exists_literalSymbol {x : Symbol} (h : x.toNat < 256) : ∃ b, x = literalSymbol b := by
  refine ⟨symbolByte x, BitVec.eq_of_toNat_eq ?_⟩
  rw [literalSymbol_toNat, symbolByte, BitVec.toNat_setWidth, Nat.mod_eq_of_lt h]

theorem ofNat_byteSymbol (b : Byte) : BitVec.ofNat 9 (byteSymbol b).val = literalSymbol b := by
  apply BitVec.eq_of_toNat_eq
  rw [BitVec.toNat_ofNat, literalSymbol, BitVec.toNat_setWidth]
  rfl

theorem occurrences_sentinel (bytes : List Byte) : occurrences bytes sentinel = 1 := if_pos rfl

theorem occurrences_literal (bytes : List Byte) (b : Byte) : occurrences bytes (literalSymbol b) = bytes.count b := by
  rw [occurrences, if_neg (literalSymbol_ne_sentinel b), literalSymbol_toNat, if_pos b.isLt]
  exact congrArg (bytes.count ·) (symbolByte_literalSymbol b)

theorem occurrences_other (bytes : List Byte) {x : Symbol} (hs : x ≠ sentinel) (h : ¬ x.toNat < 256) :
    occurrences bytes x = 0 := by
  rw [occurrences, if_neg hs, if_neg h]

/-- The table after the tally holds how often each symbol occurs (40_tree_builder.md R122). -/
theorem Tallied.occurrences {s u : State} (h : Tallied s u) (c : Fin 257) :
    u.freqOf c = occurrences s.input (BitVec.ofNat 9 c.val) := by
  obtain ⟨b, rfl⟩ | rfl := eq_byteSymbol_or_sentinel c
  · rw [ofNat_byteSymbol, occurrences_literal, h.freqOf]
  · rfl

/-! ### Cost -/

/-- Below the place `len` each leaf costs its depth times its weight (40_tree_builder.md R131). -/
def Tree.costFrom (len : Nat) (weight : Symbol → Nat) (T : Tree) : Nat :=
  (T.codes.map fun c => (len + c.2.length) * weight c.1).sum

theorem Tree.costFrom_zero (weight : Symbol → Nat) (T : Tree) : T.costFrom 0 weight = T.cost weight := by
  simp only [Tree.costFrom, Tree.cost, Nat.zero_add]

theorem Tree.costFrom_node (len : Nat) (weight : Symbol → Nat) (l r : Tree) :
    (Tree.node l r).costFrom len weight = l.costFrom (len + 1) weight + r.costFrom (len + 1) weight := by
  simp [Tree.costFrom, Tree.codes, Function.comp_def, Nat.add_assoc, Nat.add_comm 1]

/-- Each leaf of the arena has the weight of its symbol for its frequency. -/
def Weighted (weight : Symbol → Nat) (nodes : List Node) : Prop :=
  ∀ (k : Nat) (n : Node) (symbol : Symbol), nodes[k]? = some n → n.kind = .leaf symbol → n.freq = weight symbol

theorem Weighted.of_recoded {weight : Symbol → Nat} {nodes nodes' : List Node} (hw : Weighted weight nodes)
    (h : nodes'.map Node.uncoded = nodes.map Node.uncoded) : Weighted weight nodes' := by
  intro k n symbol hn hk
  obtain ⟨n', hn', hkind, hfreq⟩ := entry_of_recoded h.symm hn
  exact hfreq.symm.trans (hw k n' symbol hn' (hkind.trans hk))

/-- A new code for an entry leaves the rest of it. -/
theorem uncoded_set_placed {nodes : List Node} {k : Nat} {n : Node} (hn : nodes[k]? = some n) (len val : Nat) :
    (nodes.set k (n.placed len val)).map Node.uncoded = nodes.map Node.uncoded := by
  obtain ⟨hlt, rfl⟩ := List.getElem?_eq_some_iff.mp hn
  have hsame : (nodes[k].placed len val).uncoded = (nodes.map Node.uncoded)[k]'(by rwa [List.length_map]) := by
    rw [List.getElem_map]
    rfl
  rw [List.map_set, hsame, List.set_getElem_self]

/-- A visit adds the cost of the tree it visits to PAYLOAD_BITS (41_code_assigner.md R141). -/
theorem caVisit_payloadBits {T : Tree} {fuel : Nat} {i : Index} {len val : Nat} {s u : State} {weight : Symbol → Nat}
    (hT : Holds s.nodes i T) (hw : Weighted weight s.nodes) (h : caVisit fuel i len val s = .go () u) :
    u.payloadBits = s.payloadBits + T.costFrom len weight := by
  induction T generalizing fuel i len val s u with
  | leaf symbol =>
    cases fuel with
    | zero => cases h
    | succ fuel =>
      cases hT with
      | leaf hn hk =>
        rw [caVisit_leaf hn hk] at h
        cases h
        simp [caLeaf, Tree.costFrom, Tree.codes, hw _ _ _ hn hk]
  | node a b iha ihb =>
    cases fuel with
    | zero => cases h
    | succ fuel =>
      cases hT with
      | @node _ n _ _ _ _ hn hk ha hb =>
        rw [caVisit_node hn hk] at h
        obtain ⟨_, v, hv, h⟩ := Run.bind_eq_go h
        obtain ⟨-, hmap⟩ := caVisit_frame hv
        have hkeep {k w} (hw : Holds s.nodes k w) : Holds (s.nodes.set i.toNat (n.placed len val)) k w := hw.set hn rfl
        have hset : Weighted weight (s.nodes.set i.toNat (n.placed len val)) := hw.of_recoded (uncoded_set_placed hn len val)
        rw [ihb ((hkeep hb).of_caVisit hv) (hset.of_recoded hmap) h, iha (hkeep ha) hset hv, Tree.costFrom_node, Nat.add_assoc]
        rfl

/-- PAYLOAD_BITS after ENC_BUILD is the weighted path length of its tree (41_code_assigner.md R143). -/
theorem Stages.payloadBits {s u v w t : State} (h : Stages s u v w t) {T : Tree} (hT : Holds t.nodes t.root T) :
    t.payloadBits = T.cost (occurrences s.input) := by
  obtain ⟨T', hT', -⟩ := tbBuild_holds h.empty h.build
  have hweight : Weighted (occurrences s.input) v.nodes := fun k n symbol hn hk => by
    obtain ⟨c, rfl, hfreq, -⟩ := tbBuild_leaf h.empty h.build hn hk
    rw [hfreq, h.tallied.occurrences]
  have hassign : caVisit (codeMax + 1) v.root 0 0 { v with hdrBytes := 0#10, payloadBits := 0 } = .go () w := h.assign
  have hsame : Holds t.nodes t.root T' := by
    rw [h.nodes, h.root_build]
    exact Holds.of_caVisit (s := { v with hdrBytes := 0#10, payloadBits := 0 }) hT' hassign
  obtain rfl := hT.unique hsame
  have hbits : t.payloadBits = w.payloadBits := by rw [h.done]; rfl
  rw [hbits, caVisit_payloadBits (s := { v with hdrBytes := 0#10, payloadBits := 0 }) hT' hweight hassign, Nat.zero_add,
    Tree.costFrom_zero]

/-! ### The cost as a number of bits -/

theorem Tree.cost_add (weight weight' : Symbol → Nat) (T : Tree) :
    T.cost (fun x => weight x + weight' x) = T.cost weight + T.cost weight' := by
  simp only [Tree.cost, Nat.mul_add, List.sum_map_add]

/-- The weight of one occurrence of a symbol. -/
def once (symbol : Symbol) (x : Symbol) : Nat := if x = symbol then 1 else 0

theorem Tree.cost_once {T : Tree} (hd : T.symbols.Nodup) {symbol : Symbol} {path : List Bool} (h : (symbol, path) ∈ T.codes) :
    T.cost (once symbol) = path.length := by
  obtain ⟨front, back, hcodes⟩ := List.append_of_mem h
  rw [← T.codes_symbols, hcodes, List.map_append, List.map_cons, List.nodup_middle, List.nodup_cons, List.mem_append] at hd
  have hzero (l : List (Symbol × List Bool)) (hl : symbol ∉ l.map Prod.fst) :
      (l.map fun c => c.2.length * once symbol c.1).sum = 0 := by
    refine List.sum_eq_zero fun x hx => ?_
    obtain ⟨c, hc, rfl⟩ := List.mem_map.mp hx
    have hne : c.1 ≠ symbol := fun e => hl (e ▸ List.mem_map_of_mem hc)
    rw [once, if_neg hne, Nat.mul_zero]
  obtain ⟨hnot, -⟩ := hd
  rw [Tree.cost, hcodes, List.map_append, List.sum_append, List.map_cons, List.sum_cons, hzero _ fun hm => hnot (.inl hm),
    hzero _ fun hm => hnot (.inr hm)]
  simp [once]

theorem occurrences_nil : occurrences [] = once sentinel := by
  funext x
  simp [occurrences, once]

theorem occurrences_cons (b : Byte) (bytes : List Byte) (x : Symbol) :
    occurrences (b :: bytes) x = once (literalSymbol b) x + occurrences bytes x := by
  by_cases hs : x = sentinel
  · rw [hs, occurrences_sentinel, occurrences_sentinel, once, if_neg (literalSymbol_ne_sentinel b).symm]
  by_cases hlit : x.toNat < 256
  · obtain ⟨c, rfl⟩ := exists_literalSymbol hlit
    rw [occurrences_literal, occurrences_literal, List.count_cons, Nat.add_comm]
    simp only [once, literalSymbol_injective.eq_iff, beq_iff_eq, eq_comm (a := b)]
  · have hne : x ≠ literalSymbol b := fun e => hlit (by rw [e, literalSymbol_toNat]; exact b.isLt)
    rw [occurrences_other _ hs hlit, occurrences_other _ hs hlit, once, if_neg hne]

/-- The weighted path length for a stream's symbols is the length of the stream's codes and the sentinel's
(41_code_assigner.md R143). -/
theorem Tree.cost_occurrences {T : Tree} (hd : T.symbols.Nodup) {code : Byte → List Bool} {stop : List Bool} {bytes : List Byte}
    (hcode : ∀ b ∈ bytes, (literalSymbol b, code b) ∈ T.codes) (hstop : (sentinel, stop) ∈ T.codes) :
    T.cost (occurrences bytes) = (bytes.flatMap code ++ stop).length := by
  induction bytes with
  | nil => rw [occurrences_nil, Tree.cost_once hd hstop]; rfl
  | cons b bytes ih =>
    obtain ⟨hb, hcode⟩ := List.forall_mem_cons.mp hcode
    have hsum : occurrences (b :: bytes) = fun x => once (literalSymbol b) x + occurrences bytes x :=
      funext (occurrences_cons b bytes)
    rw [hsum, Tree.cost_add, Tree.cost_once hd hb, ih hcode, List.flatMap_cons, List.append_assoc,
      List.length_append (as := code b)]

end Sys2Proof.Machine
end

section
/-! SUPPORT. The whole encode after an ENC_BUILD that ends OK: header and payload, and the size the gate has promised
(44_encoder_commands.md R197). -/

namespace Sys2Proof.Machine

/-- What an encode session and the decoder need of the tree `T` that ENC_BUILD builds in `t` for the input `bytes`. -/
structure EncTree (bytes : List Byte) (t : State) (T : Tree) : Prop where
  acceptable : T.acceptable = true
  coded : Coded t.nodes t.root T 0 0
  /-- HDR_BYTES (42_tree_codec.md R152). -/
  header : t.hdrBytes.toNat = T.header.length
  /-- Each byte has a code, which is a path of the tree (10_state.md R28). -/
  hasCode : ∀ b ∈ bytes, t.HasCode (byteSymbol b)
  literals : ∀ b ∈ bytes, (literalSymbol b, t.codeOf (byteSymbol b)) ∈ T.codes
  /-- So has the sentinel. -/
  hasStop : t.HasCode sentinelSymbol
  stop : (sentinel, t.codeOf sentinelSymbol) ∈ T.codes
  /-- PAYLOAD_BITS (41_code_assigner.md R143). -/
  payload : t.payloadBits = ((bytes.flatMap fun b => t.codeOf (byteSymbol b)) ++ t.codeOf sentinelSymbol).length

theorem EncTree.height {bytes : List Byte} {t : State} {T : Tree} (h : EncTree bytes t T) : T.height ≤ codeMax := by
  obtain ⟨-, hcap, -⟩ := Tree.acceptable_iff.mp h.acceptable
  exact T.height_le_codeMax hcap

theorem EncTree.tree? {bytes : List Byte} {t : State} {T : Tree} (h : EncTree bytes t T) : t.tree? = some T :=
  h.coded.holds.readTree_eq (Nat.lt_succ_of_le h.height)

/-- ENC_BUILD's tree has a leaf for each byte of the input and the sentinel, and LEAF_OF leads to it. -/
theorem Stages.encTree {s u v w t : State} (h : Stages s u v w t) (hne : s.input ≠ []) : ∃ T, EncTree s.input t T := by
  obtain ⟨T, hacc, hcoded, hsize⟩ := h.acceptable hne
  obtain ⟨T', hcoded', hperm⟩ := h.coded
  obtain rfl := hcoded.holds.unique hcoded'.holds
  obtain ⟨-, hcap, -⟩ := Tree.acceptable_iff.mp hacc
  have hd : T.symbols.Nodup := hperm.nodup_iff.mpr (u.usedAmong_nodup (List.nodup_finRange 257))
  have hcode (c : Fin 257) (hc : 0 < u.freqOf c) : t.HasCode c ∧ (BitVec.ofNat 9 c.val, t.codeOf c) ∈ T.codes := by
    have hmem : BitVec.ofNat 9 c.val ∈ T.codes.map Prod.fst := by
      rw [T.codes_symbols, hperm.mem_iff]
      exact List.mem_map_of_mem (State.mem_present.mpr ⟨List.mem_finRange c, hc⟩)
    obtain ⟨⟨_, path⟩, hp, rfl⟩ := List.mem_map.mp hmem
    obtain ⟨hhas, hpath⟩ := h.code_of_mem_codes hcoded (T.height_le_codeMax hcap) hp
    exact ⟨hhas, hpath ▸ hp⟩
  have hbytes (b : Byte) (hb : b ∈ s.input) := hcode (byteSymbol b)
    (by rw [h.tallied.freqOf]; exact List.count_pos_iff.mpr hb)
  simp only [ofNat_byteSymbol] at hbytes
  obtain ⟨hasCode, hliterals⟩ := forall₂_and.mp hbytes
  obtain ⟨hasStop, hstop⟩ := hcode sentinelSymbol Nat.one_pos
  refine ⟨T, hacc, hcoded, ?_, hasCode, hliterals, hasStop, hstop, ?_⟩
  · rw [hsize, BitVec.toNat_ofNat, Nat.mod_eq_of_lt (Tree.header_length_lt hcap)]
  · rw [h.payloadBits hcoded.holds, Tree.cost_occurrences hd hliterals hstop]

/-- An ENC_BUILD that ends OK has passed the gate (44_encoder_commands.md R192). -/
theorem encBuild_ok {s t : State} (hs : Inv s) (h : exec .encBuild s = .next t) (hl : t.status.last = .ok) :
    ∃ u v w, Stages s u v w t ∧ s.input ≠ [] ∧ ¬ (s.gateEn = true ∧ t.oversize) ∧ t.status.phase = .treeBuilt := by
  obtain ⟨hp, hgo⟩ := admitted_eq_go decide_eq_true_iff (encBuildRun_ends s) h hl
  obtain ⟨hne, hmax⟩ := input_of_encBuildRun_eq_go hgo
  obtain ⟨u, v, w, t', hst, hexec, hverdict⟩ := encBuild_verdict hs hp hne hmax
  cases hexec.symm.trans h
  obtain ⟨-, -, e⟩ | ⟨hpass, e⟩ := hverdict <;> rw [e] at hl ⊢
  · cases hl
  · exact ⟨u, v, w, hst, hne, hpass, rfl⟩

/-- The encoded size in bytes (41_code_assigner.md R144). -/
theorem not_oversize_iff {t : State} :
    ¬ t.oversize ↔ t.hdrBytes.toNat + t.cfg.WB * wordCount t.cfg.W t.payloadBits < t.inCount := by
  have hbits (k : Nat) : t.cfg.W * k = 8 * (t.cfg.WB * k) := by rw [← Nat.mul_assoc, ← t.cfg.W_eq]
  rw [State.oversize, hbits]
  omega

/-- The state ENC_EXPORT leaves after ENC_BUILD and a rewind. -/
def State.exported (T : Tree) (t : State) : State :=
  ((t.rewind.setPhase .exporting).outWrite T.header).retOk .exporting

@[simp] theorem State.exported_cfg (T : Tree) (t : State) : (t.exported T).cfg = t.cfg := by
  simp [State.exported]

@[simp] theorem State.exported_mem (T : Tree) (t : State) :
    (t.exported T).mem = ⟨t.mem.data, 0, t.mem.out ++ T.header⟩ := by
  simp [State.exported]

@[simp] theorem State.exported_nodes (T : Tree) (t : State) : (t.exported T).nodes = t.nodes := by
  simp [State.exported]

@[simp] theorem State.exported_leafOf (T : Tree) (t : State) : (t.exported T).leafOf = t.leafOf := by
  simp [State.exported]

@[simp] theorem State.exported_input (T : Tree) (t : State) : (t.exported T).input = t.mem.data := by
  rw [State.input, State.exported_mem, List.drop_zero]

@[simp] theorem State.exported_leafIndex (T : Tree) (t : State) (c : Fin 257) :
    (t.exported T).leafIndex c = t.leafIndex c := by
  simp only [State.leafIndex, State.exported_leafOf]

@[simp] theorem State.exported_node? (T : Tree) (t : State) (i : Index) : (t.exported T).node? i = t.node? i := by
  simp only [State.node?, State.exported_nodes]

@[simp] theorem State.exported_codeOf (T : Tree) (t : State) : (t.exported T).codeOf = t.codeOf :=
  funext (State.codeOf_congr (State.exported_leafOf T t) (State.exported_nodes T t))

@[simp] theorem State.exported_hasCode (T : Tree) (t : State) (c : Fin 257) : (t.exported T).HasCode c ↔ t.HasCode c := by
  simp only [State.HasCode, State.exported_leafIndex, State.exported_node?]

/-- ENC_EXPORT and ENC_ENCODE over the stream the tree was built for (44_encoder_commands.md R197). -/
theorem EncTree.encode {t : State} {T : Tree} (h : EncTree t.mem.data t T) (hp : t.status.phase = .treeBuilt) :
    exec .encExport t.rewind = .next (t.exported T) ∧ exec .encEncode (t.exported T) = .next (t.exported T).encoded :=
  ⟨exec_encExport_of_holds hp h.coded.holds h.height,
    exec_encEncode_of_codes rfl (by simpa using h.hasCode) (by simpa using h.hasStop)⟩

/-- What the two commands write (44_encoder_commands.md R197). -/
theorem State.exported_encoded_out (T : Tree) (t : State) : (t.exported T).encoded.mem.out = t.mem.out ++ T.header ++
    payloadBytes t.cfg ((t.mem.data.flatMap fun b => t.codeOf (byteSymbol b)) ++ t.codeOf sentinelSymbol) := by
  rw [State.encoded_out, State.exported_mem, State.exported_cfg, State.exported_input, State.exported_codeOf]

/-- ENC_BUILD of a whole stream, ended OK: the tree for that stream, what of the block is kept, and that the gate, where it is
on, found the encoded size smaller (44_encoder_commands.md R191, R192). -/
theorem encBuild_whole {s t : State} (hs : Inv s) (hpos : s.mem.pos = 0) (h : exec .encBuild s = .next t)
    (hl : t.status.last = .ok) : ∃ T, EncTree t.mem.data t T ∧ t.status.phase = .treeBuilt ∧
      t.cfg = s.cfg ∧ t.mem.data = s.mem.data ∧ t.mem.out = s.mem.out ∧
      (s.gateEn = true → t.hdrBytes.toNat + s.cfg.WB * wordCount s.cfg.W t.payloadBits < s.mem.data.length) := by
  obtain ⟨u, v, w, hst, hne, hpass, hp⟩ := encBuild_ok hs h hl
  have hinput : s.input = s.mem.data := by rw [State.input, hpos, List.drop_zero]
  have hcfg : t.cfg = s.cfg := by rw [hst.frame]
  have hdata : t.mem.data = s.mem.data := by rw [hst.frame]
  obtain ⟨T, hT⟩ := hst.encTree hne
  rw [hinput, ← hdata] at hT
  refine ⟨T, hT, hp, hcfg, hdata, by rw [hst.frame], fun hgate => ?_⟩
  rw [← hcfg, ← hinput, ← hst.inCount]
  exact not_oversize_iff.mp fun hover => hpass ⟨hgate, hover⟩

/-- Settles O42: ENC_EXPORT writes the header, ENC_ENCODE the codes of the bytes, which all have one, and the gate has compared
just these lengths. -/
theorem wholeEncodeWritesHeaderAndPayload : Obligations.WholeEncodeWritesHeaderAndPayload := by
  intro s s1 hs _ hpos _ hbuild hlast
  obtain ⟨T, hT, hp, hcfg, hdata, hout, hsmall⟩ := encBuild_whole hs hpos hbuild hlast
  obtain ⟨hexport, hencode⟩ := hT.encode hp
  have hlen : (s1.exported T).encoded.mem.out.length =
      s.mem.out.length + s1.hdrBytes.toNat + s.cfg.WB * wordCount s.cfg.W s1.payloadBits := by
    rw [State.exported_encoded_out, List.length_append, List.length_append, payloadBytes_length, ← hT.payload, hT.header, hout,
      hcfg]
  refine ⟨_, _, T, hexport, hencode, rfl, hT.tree?, ?_, hlen, fun hgate => ?_⟩
  · rw [State.exported_encoded_out, hout, hdata, hcfg]
  · have := hsmall hgate
    omega

end Sys2Proof.Machine
end

section
/-! SUPPORT. A decoder given what an encode session wrote (44_encoder_commands.md R198). -/

namespace Sys2Proof.Machine

/-- DEC_BUILD on an acceptable header keeps the invariant. -/
theorem Inv.accepted {d : State} {T : Tree} {more : List Byte} (hd : Inv d) (hT : T.acceptable = true)
    (hinput : d.input = T.header ++ more) (hp : d.status.phase = .idle) : Inv (d.accepted T) := by
  obtain ⟨hq, hpend, hstart, hacc, hcnt⟩ := hd.locals
  obtain ⟨-, hcap, -, hnode⟩ := Tree.acceptable_iff.mp hT
  have hnoerr : d.status.err = .ok := by
    by_contra herr
    cases hp.symm.trans (hd.err_rejected.mp herr)
  have hlen : d.mem.pos + T.header.length ≤ d.mem.data.length := by
    have hpos := (Memory.wf_iff d.mem).mp hd.streams
    have hle := congrArg List.length hinput
    rw [State.input, List.length_drop, List.length_append] at hle
    omega
  exact {
    streams := (Memory.wf_iff _).mpr hlen
    resting := rfl
    mode_idle := by simp [State.accepted, Status.passed]
    mode_encoder := by simp [State.accepted, Status.passed]
    mode_decoder := fun _ => rfl
    err_rejected := by simp [State.accepted, Status.passed, hnoerr]
    err_fatal := .inl hnoerr
    ctrl := hd.ctrl
    locals := ⟨hq, hpend, hstart, hacc, hcnt⟩
    inCount := hd.inCount
    payloadBits := hd.payloadBits
    freq := hd.freq
    nodeFreq := fun n hn => by
      rw [T.layout_freq 0 0 0 n hn]
      exact Nat.two_pow_pos _
    word := hd.word
    arena := (T.layout_length 0 0 0).trans_le hcap
    idle_clean := by simp [State.accepted, Status.passed]
    tree := fun _ => ⟨T, State.accepted_tree? hcap, hnode, by
      simp [State.accepted, Nat.mod_eq_of_lt (Tree.header_length_lt hcap)]⟩
    leaves := by simp [State.accepted, Status.passed] }

/-- A decoder given a tree's header and the payload of its codes for some bytes and the sentinel writes the bytes. -/
theorem decode_of_codes {d : State} {T : Tree} {bytes : List Byte} {code : Byte → List Bool} {stop : List Bool} (hd : Inv d)
    (hp : d.status.phase = .idle) (hT : T.acceptable = true) (hcode : ∀ b ∈ bytes, (literalSymbol b, code b) ∈ T.codes)
    (hstop : (sentinel, stop) ∈ T.codes) (hinput : d.input = T.header ++ payloadBytes d.cfg (bytes.flatMap code ++ stop)) :
    ∃ d1 d2, exec .decBuild d = .next d1 ∧ d1.status.last = .ok ∧ exec .decDecode d1 = .next d2 ∧ d2.status.last = .ok ∧
      d2.mem.out = d.mem.out ++ bytes := by
  obtain ⟨-, hcap, -⟩ := Tree.acceptable_iff.mp hT
  have hpayload : (d.accepted T).input =
      payloadBytes d.cfg ((bytes.map fun b => (literalSymbol b, code b)).flatMap (·.2) ++ stop) ++ [] := by
    rw [List.append_nil, List.flatMap_map]
    exact State.skip_rest (s := d) hinput
  obtain ⟨d2, hdecode, hok, -, hout, -⟩ := unpackerInvertsThePacker (d.accepted T) T
    (bytes.map fun b => (literalSymbol b, code b)) stop [] (hd.accepted hT hinput hp) rfl (State.accepted_tree? hcap)
    (List.forall_mem_map.mpr fun b hb => ⟨hcode b hb, literalSymbol_ne_sentinel b⟩) hstop hpayload
  have hback : (bytes.map fun b => (literalSymbol b, code b)).map (fun c => symbolByte c.1) = bytes := by
    simp [Function.comp_def, symbolByte_literalSymbol]
  refine ⟨d.accepted T, d2, exec_decBuild_of_acceptable hd hp hT hinput, rfl, hdecode, hok, ?_⟩
  exact hout.trans (congrArg _ hback)

/-- The header of an acceptable tree has at least an `N`, a literal's two bytes and a `Z` (42_tree_codec.md R152). -/
theorem Tree.four_le_header_length {T : Tree} (hT : T.acceptable = true) : 4 ≤ T.header.length := by
  obtain ⟨-, -, hone, hnode⟩ := Tree.acceptable_iff.mp hT
  have htwo : 2 ≤ T.symbols.length := by
    cases T with
    | leaf => cases hnode
    | node l r => exact (Nat.succ_le_succ (Nat.succ_pos _)).trans (Tree.node l r).height_lt_symbols
  have hheader := T.header_length
  have hsize := T.size_eq
  omega

theorem Tree.ne_nil_of_mem_codes {T : Tree} (hT : T.isNode = true) {symbol : Symbol} {path : List Bool}
    (h : (symbol, path) ∈ T.codes) : path ≠ [] := by
  cases T with
  | leaf => cases hT
  | node l r => exact Tree.ne_nil_of_mem_leafPaths_node (List.mem_map_of_mem h)

theorem wordCount_pos {W k : Nat} (hW : 0 < W) (hk : 0 < k) : 0 < wordCount W k :=
  Nat.pos_of_mul_pos_right (hk.trans_le (le_wordCount_mul hW k))

/-- The least encoded size: a header of four bytes and one payload word (44_encoder_commands.md R198). -/
theorem EncTree.le_size {bytes : List Byte} {t : State} {T : Tree} (h : EncTree bytes t T) :
    4 + t.cfg.WB ≤ t.hdrBytes.toNat + t.cfg.WB * wordCount t.cfg.W t.payloadBits := by
  obtain ⟨-, -, -, hnode⟩ := Tree.acceptable_iff.mp h.acceptable
  have hheader := Tree.four_le_header_length h.acceptable
  have hstop := List.length_pos_iff.mpr (Tree.ne_nil_of_mem_codes hnode h.stop)
  have hwords := wordCount_pos t.cfg.W_pos (show 0 < t.payloadBits by rw [h.payload, List.length_append]; omega)
  have hbytes := Nat.le_mul_of_pos_right t.cfg.WB hwords
  rw [h.header]
  omega

/-- Settles O59: the decoder takes in the tree of the header and walks the codes back to the bytes; the gate's verdict is
`oversize`; and a counter that is full ends the tally. -/
theorem encodeThenDecodeIsIdentity : Obligations.EncodeThenDecodeIsIdentity := by
  refine ⟨fun s s1 hs _ hpos hempty _ hbuild hlast => ?_, fun s hs hp hgate hne hmax => ?_,
    fun s hs hp hgate hne hmax hsmall => ?_, fun s _ hp hover => ?_⟩
  · obtain ⟨T, hT, hp, hcfg, hdata, hout, -⟩ := encBuild_whole hs hpos hbuild hlast
    obtain ⟨hexport, hencode⟩ := hT.encode hp
    refine ⟨_, _, hexport, hencode, rfl, fun d hd hdp hW ho hmem => ?_⟩
    have hinput : d.input = T.header ++
        payloadBytes d.cfg ((s1.mem.data.flatMap fun b => s1.codeOf (byteSymbol b)) ++ s1.codeOf sentinelSymbol) := by
      rw [State.input, hmem, List.drop_zero, State.exported_encoded_out, hout, hempty, List.nil_append, hcfg,
        payloadBytes_congr hW ho]
    obtain ⟨d1, d2, hb, hb1, hd1, hd2, hdecoded⟩ := decode_of_codes hd hdp hT.acceptable hT.literals hT.stop hinput
    exact ⟨d1, d2, hb, hb1, hd1, hd2, by rw [hdecoded, hmem, List.nil_append, hdata]⟩
  · obtain ⟨t, hexec, -, hoff⟩ := gateRejectsExactlyTheIncompressible s hs hp hne hmax
    obtain ⟨hok, -⟩ := hoff hgate
    exact ⟨t, hexec, hok⟩
  · obtain ⟨u, v, w, t, hst, hexec, hverdict⟩ := encBuild_verdict hs hp hne hmax
    obtain ⟨T, hT⟩ := hst.encTree hne
    have hcfg : t.cfg = s.cfg := by rw [hst.frame]
    have hover : t.oversize := by
      by_contra hfit
      have hlt := not_oversize_iff.mp hfit
      have hge := hT.le_size
      rw [hst.inCount] at hlt
      rw [hcfg] at hlt hge
      omega
    obtain ⟨-, -, e⟩ | ⟨hpass, -⟩ := hverdict
    · exact ⟨t, hexec, by rw [e]; rfl⟩
    · exact absurd ⟨hgate, hover⟩ hpass
  · obtain ⟨u, hexec⟩ := exec_encBuild_of_overflow hp hover
    exact ⟨_, hexec, rfl⟩

end Sys2Proof.Machine
end

section
/-! SUPPORT. The Bit Unpacker on a payload that ends before the sentinel's code (43_bit_packer_unpacker.md R181). -/

namespace Sys2Proof.Machine

/-- The unpacker started in `s` with all of IN consumed, the literals `out` written and its three registers moved on
(43_bit_packer_unpacker.md R181). -/
def State.ranOut (word mask : Nat) (cur : Index) (out : List Byte) (s : State) : State :=
  { s with
    word := word
    mask := mask
    cur := cur
    mem := ⟨s.mem.data, s.mem.data.length, s.mem.out ++ out⟩ }

theorem State.ranOut_walked (n w m : Nat) (c : Index) (out : List Byte) (w' m' : Nat) (c' : Index) (out' : List Byte)
    (s : State) : (s.walked n w m c out).ranOut w' m' c' out' = s.ranOut w' m' c' (out ++ out') := by
  simp [State.ranOut, State.walked]

/-- BU.LOAD on less than a word consumes the tail and leaves the registers (20_memory.md R63). -/
theorem buLoad_of_lt {s : State} (h : s.mem.rest.length < s.cfg.WB) :
    buLoad s = .raised ((s.ranOut s.word s.mask s.cur []).raise .truncatedStream) := by
  obtain ⟨hle, -⟩ | ⟨-, e⟩ := buLoad_cases s
  · omega
  · rw [e, State.ranOut, List.append_nil]

/-- Without a whole word there is no bit to walk: the decode loop's first load raises. -/
theorem buLoop_of_lt (fuel : Nat) {s : State} {T t : Tree} {out : List Byte} (h : s.mem.rest.length < s.cfg.WB)
    (hd : decodeBits T t (streamBits s.cfg s.mem.rest) = (out, none)) :
    buLoop fuel s = .raised ((s.ranOut s.word s.mask s.cur out).raise .truncatedStream) := by
  have hout : out = [] := by
    rw [streamBits_of_lt h] at hd
    cases t <;> cases hd <;> rfl
  rw [hout]
  cases fuel <;> rw [buLoop, buLoad_of_lt h] <;> rfl

/-- Where the reference walk over the words ahead does not come to the sentinel, the decode loop walks them all, writes the same
literals and raises on the short read that follows. -/
theorem buLoop_of_no_stop {fuel : Nat} {s : State} {T t : Tree} {out : List Byte} (hT : T.isNode = true)
    (hroot : Holds s.nodes s.root T) (ht : t.isNode = true) (hcur : Holds s.nodes s.cur t)
    (hfuel : s.mem.rest.length < (fuel + 1) * s.cfg.WB)
    (hd : decodeBits T t (streamBits s.cfg s.mem.rest) = (out, none)) :
    ∃ w m c, buLoop fuel s = .raised ((s.ranOut w m c out).raise .truncatedStream) := by
  induction fuel generalizing s t out with
  | zero =>
    exact ⟨_, _, _, buLoop_of_lt 0 (by omega) hd⟩
  | succ fuel ih =>
    obtain hlt | hle := Nat.lt_or_ge s.mem.rest.length s.cfg.WB
    · exact ⟨_, _, _, buLoop_of_lt _ hlt hd⟩
    · rw [s.streamBits_loaded hle] at hd
      rw [buLoop_of_le fuel hle]
      obtain ⟨m, c, out', left, -, -, hword⟩ | ⟨c, out', t', ht', hc, hrun, hword⟩ :=
        buWalk_walksAs (s := s.loaded) (k := s.cfg.W) hT hroot ht hcur rfl
      · cases hd.symm.trans (hword _)
      · rw [hword] at hd
        obtain ⟨rfl, hnone⟩ := Prod.mk.inj hd
        rw [s.loaded_walked] at hrun
        have hrest := s.walked_rest s.cfg.WB s.loaded.word 0 c out'
        rw [← hrest] at hnone
        obtain ⟨w, m, c', hloop⟩ := ih (s := s.walked s.cfg.WB s.loaded.word 0 c out') hroot ht' hc
          (by
            rw [Nat.succ_mul] at hfuel
            rw [hrest, List.length_drop]
            exact Nat.sub_lt_right_of_lt_add hle hfuel)
          (Prod.ext rfl hnone)
        rw [State.ranOut_walked, hrest] at hloop
        refine ⟨w, m, c', ?_⟩
        rw [hrun, Run.bind_go]
        exact hloop

/-- BU.RUN where the reference walk from ROOT does not come to the sentinel. -/
theorem buRun_of_no_stop {s : State} {T : Tree} {out : List Byte} (hT : T.isNode = true) (hroot : Holds s.nodes s.root T)
    (hd : decodeBits T T (streamBits s.cfg s.input) = (out, none)) :
    ∃ w m c, buRun s = .raised ((s.ranOut w m c out).raise .truncatedStream) :=
  buLoop_of_no_stop (s := buStart s) hT hroot hT hroot (Nat.lt_mul_of_div_lt (Nat.lt_succ_self _) s.cfg.WB_pos) hd

/-- Settles O57: the decode loop walks every whole word as the reference walk does, and the load after the last one raises. -/
theorem decDecodeReportsTruncation : Obligations.DecDecodeReportsTruncation := by
  intro s T emitted hs hp hT hd
  obtain ⟨hq, hpend, hstart, -⟩ := hs.locals
  obtain ⟨w, m, c, hrun⟩ := buRun_of_no_stop (s := s.setPhase .decoding) (hs.tree_isNode hp hT) (holds_of_readTree hT) hd
  have hexec : exec .decDecode s = .next (((s.setPhase .decoding).ranOut w m c emitted).raise .truncatedStream) := by
    rw [exec_decDecode_eq hp, decDecodeRun, hrun]
    rfl
  refine ⟨_, hexec, ?_⟩
  simp [State.ranOut, State.raise, State.dropLocals, State.setPhase, Status.failed, hq, hpend, hstart]

end Sys2Proof.Machine
end

section
/-! SUPPORT. The refusals of commands and SESSION_END (46_session_commands.md R225 to R227): what each answers as a whole state. -/

namespace Sys2Proof.Machine

theorem admitted_of_not {P : Prop} {ok : Bool} (hok : ok = true ↔ P) (hP : ¬ P) (s : State) (run : State → Run Unit) :
    admitted ok s run = .next s.refuseBadState := by
  obtain ⟨ho, -⟩ | ⟨-, e⟩ := admitted_cases ok s run
  · exact absurd (hok.mp ho) hP
  · exact e

/-- A command that STATE does not admit is refused, whichever it is. -/
theorem exec_of_not_admits {i : Instr} {s : State} (hi : i.isToken = false) (hna : ¬ admits i s.status.phase) :
    exec i s = .next s.refuseBadState := by
  cases i with
  | sessionEnd =>
    rw [exec_sessionEnd_eq]
    exact admitted_of_not (sessionEnd_admits_iff _) hna s _
  | encBuild | encExport | encEncode | decBuild | decDecode => exact admitted_of_not (by simp [admits]) hna s _
  | tokN | tokC | tokZ => cases hi

/-- An admitted command ends in OK or in a session-fatal code, and BadState is neither. -/
theorem exec_last_ne_badState_of_admits {i : Instr} {s t : State} (hi : i.isToken = false) (ha : admits i s.status.phase)
    (h : exec i s = .next t) : t.status.last ≠ .badState := by
  obtain ⟨hna, -⟩ | ⟨-, ht | ⟨e, he, ht⟩⟩ := exec_status_cases hi h
  · exact absurd ha hna
  · simp [ht, doneStatus_last hi]
  · rw [ht]
    exact Result.ne_badState_of_fatal he

/-- Settles O15: every command is guarded by the states that admit it, and no run of an admitted one ends in BadState. -/
theorem commandInWrongStateIsRefused : Obligations.CommandInWrongStateIsRefused :=
  fun _ _ hi _ => ⟨exec_of_not_admits hi, fun ha _ h => exec_last_ne_badState_of_admits hi ha h⟩

theorem command_of_no_command {v : Byte} (s : State) (hv : ∀ i, decodeCommand v ≠ .ok i) :
    command v s = .next (s.refuseIllegal.tell (.rsp .illegalCommand)) := by
  rw [command, issue_of_no_command s hv]
  rfl

/-- Settles O14: a write to CMD is the command of its value, here the refusal and the delivery of its code. -/
theorem unassignedOpcodeIsRefused : Obligations.UnassignedOpcodeIsRefused :=
  fun s _ _ hv => command_of_no_command s hv

/-- Settles O60: STATE admits SESSION_END, which ends the session with ROOT and CUR drawn. -/
theorem sessionEndRestoresResetValues : Obligations.SessionEndRestoresResetValues :=
  fun s hs => ⟨s.endSession, exec_sessionEnd hs, rfl⟩

end Sys2Proof.Machine
end

section
/-! SUPPORT. ENC_BUILD on the inputs that give no tree: an empty one, and one with more bytes than the counters can hold
(60_exceptions.md R242, R248). -/

namespace Sys2Proof.Machine

theorem exec_encBuild_eq {s : State} (hp : s.status.phase = .idle) : exec .encBuild s = (encBuildRun s).outcome := by
  simp [exec, execEncBuild, admitted, hp]

/-- Settles O26: the tally has nothing to count, and a block in Idle holds the values that ST.CLEAR writes. -/
theorem emptyInputIsRejected : Obligations.EmptyInputIsRejected := by
  intro s hs hp hnil
  obtain ⟨hfreq, -, -, -, -, hcount, -⟩ := hs.idle_clean hp
  obtain ⟨hq, hpend, hstart, -⟩ := hs.locals
  have hlen : s.mem.rest.length = 0 := congrArg List.length hnil
  rw [exec_encBuild_eq hp, encBuildRun, hlen, tally, Run.bind_go, encTree, if_pos (stClear_inCount _), fail_eq,
    Run.outcome_raised]
  simp [State.raise, State.dropLocals, State.enter, stClear, Status.failed, hfreq, hcount, hq, hpend, hstart]

/-- The tally counts the bytes before the one that finds the counters full, and raises behind that one
(40_tree_builder.md R121). -/
theorem tally_of_full {s : State} {before after : List Byte} {b : Byte} (hl : s.mem.rest = before ++ b :: after)
    (hfull : s.inCount + before.length = s.cfg.maxCount) :
    ∃ u : State, tally (before ++ b :: after).length s = .raised (u.raise .counterOverflow) ∧
      (∀ c, u.freqOf (byteSymbol c) = s.freqOf (byteSymbol c) + before.count c) ∧
      u = { s with
        freq := u.freq, inCount := s.cfg.maxCount, mem := { s.mem with pos := s.mem.pos + before.length + 1 } } := by
  induction before generalizing s with
  | nil =>
    refine ⟨s.skip 1, ?_, fun c => rfl, by rw [← hfull]; rfl⟩
    rw [List.nil_append, List.length_cons, tally, State.inRead_of_cons hl]
    exact congrArg (Run.bind · _) (if_pos hfull)
  | cons x before ih =>
    rw [List.length_cons] at hfull
    obtain ⟨u, hu, hfreq, hframe⟩ := ih (s := s.counted x) (Memory.rest_succ hl)
      (by rw [State.counted_inCount, State.counted_cfg]; omega)
    refine ⟨u, ?_, fun c => ?_, ?_⟩
    · rw [List.cons_append, List.length_cons, tally_succ hl (by omega), hu]
    · rw [hfreq, State.counted_freqOf, List.count_cons, Nat.add_assoc, Nat.add_comm (List.count c before)]
      simp only [beq_iff_eq]
    · rw [hframe, List.length_cons, Nat.add_comm before.length, ← Nat.add_assoc]
      rfl

/-- Settles O27: the input is cut at the byte that finds the counters full, and ENC_BUILD ends where its tally raises. -/
theorem counterOverflowIsRaised : Obligations.CounterOverflowIsRaised := by
  intro s hs hp hover
  obtain ⟨hq, hpend, hstart, -⟩ := hs.locals
  have hcut : s.input = s.input.take s.cfg.maxCount ++ s.input[s.cfg.maxCount] :: s.input.drop (s.cfg.maxCount + 1) := by
    rw [← List.drop_eq_getElem_cons hover, List.take_append_drop]
  have hlen : (s.input.take s.cfg.maxCount).length = s.cfg.maxCount := List.length_take_of_le hover.le
  obtain ⟨u, hu, hfreq, hframe⟩ := tally_of_full (s := stClear (s.enter .encoder .countingFrequencies)) hcut
    ((Nat.zero_add _).trans hlen)
  rw [← hcut] at hu
  refine ⟨u.raise .counterOverflow, ?_, fun b => ?_, ?_⟩
  · rw [exec_encBuild_eq hp, encBuildRun, show s.mem.rest.length = s.input.length from rfl, hu, Run.bind_raised,
      Run.outcome_raised]
  · refine (hfreq b).trans ?_
    simp [State.freqOf_byteSymbol]
  · rw [hframe, hlen]
    simp [State.raise, State.dropLocals, State.enter, stClear, Status.failed, hq, hpend, hstart]

end Sys2Proof.Machine
end

section
/-! SUPPORT. A command and what lies outside its session, CTRL and the host's two lists (60_exceptions.md R246; log 6): said for
each command by the states it can end in, and for DEC_BUILD by its parse, token by token. -/

namespace Sys2Proof.Machine

/-- What no command writes: CTRL, the host's coming actions and what the host has received. -/
def State.port (s : State) : BitVec 8 × List HostAction × List HostEvent := (s.ctrl, s.script, s.seen)

/-! ### Encoder -/

variable {s t : State}

theorem exec_encBuild_port (hs : Inv s) (hp : s.status.phase = .idle) (h : exec .encBuild s = .next t) : t.port = s.port := by
  by_cases hover : s.cfg.maxCount < s.input.length
  · obtain ⟨u, hu, -, e⟩ := counterOverflowIsRaised s hs hp hover
    cases hu.symm.trans h
    rw [e]; rfl
  by_cases hnil : s.input = []
  · cases (emptyInputIsRejected s hs hp hnil).symm.trans h
    rfl
  · obtain ⟨u, v, w, hst⟩ := encBuild_stages_of_next hs hp hnil (Nat.le_of_not_lt hover) h
    rw [hst.frame]; rfl

theorem exec_encExport_port (hs : Inv s) (hp : s.status.phase = .treeBuilt) (h : exec .encExport s = .next t) :
    t.port = s.port := by
  obtain ⟨T, -, -, e⟩ := encExportWritesTheHeader s hs hp
  cases e.symm.trans h
  rfl

/-- ENC_ENCODE ends at the first byte without a code, or with the whole input packed. -/
theorem exec_encEncode_port (hs : Inv s) (hp : s.status.phase = .exporting) (h : exec .encEncode s = .next t) :
    t.port = s.port := by
  have hleaves := hs.leaves (.inr hp)
  have ⟨_, hstop⟩ := hleaves
  cases hfind : s.input.find? fun b => !(s.leafIndex (byteSymbol b)).isSome with
  | none =>
    have hcodes := List.find?_eq_none.mp hfind
    have hall : ∀ b ∈ s.input, s.HasCode (byteSymbol b) := fun b hb =>
      hleaves.hasCode (by simpa [Option.isSome_iff_ne_none] using hcodes b hb)
    cases (exec_encEncode_of_codes hp hall (hleaves.hasCode hstop)).symm.trans h
    rfl
  | some b =>
    obtain ⟨hb, before, after, hinput, hcodes⟩ := List.find?_eq_some_iff_append.mp hfind
    have hall : ∀ x ∈ before, s.HasCode (byteSymbol x) := fun x hx => hleaves.hasCode (by simpa using hcodes x hx)
    cases (exec_encEncode_of_noCode hp hinput hall (by simpa using hb)).symm.trans h
    rfl

/-! ### Decoder -/

theorem tokenLeaf_raised {symbol : Symbol} (h : tokenLeaf symbol s = .raised t) :
    s.nodeN = nodeCap ∧ t = s.raise .capacityExceeded := by
  unfold tokenLeaf at h
  split at h
  next hfull => cases h; exact ⟨hfull, rfl⟩
  next => exact absurd h tcReturn_not_raised

/-- A token that raises changes only what the raise does (42_tree_codec.md R153, R157). -/
theorem runToken_raised {i : Instr} (h : runToken i s = .raised t) : ∃ e, t = s.raise e := by
  cases i with
  | tokN =>
    rw [runToken, tokenN] at h
    split at h <;> cases h
    exact ⟨_, rfl⟩
  | tokC symbol =>
    obtain ⟨-, e⟩ := tokenLeaf_raised h
    exact ⟨_, e⟩
  | tokZ =>
    rw [runToken, tokenZ] at h
    split at h
    · cases h; exact ⟨_, rfl⟩
    next hroom =>
      obtain ⟨hfull, -⟩ := tokenLeaf_raised h
      exact absurd hfull hroom
  | encBuild | encExport | encEncode | decBuild | decDecode | sessionEnd => cases h; exact ⟨_, rfl⟩

theorem runToken_port (i : Instr) (s : State) : (runToken i s).All (·.port = s.port) := by
  cases h : runToken i s with
  | go _ t =>
    obtain ⟨e, -⟩ := runToken_frame h
    rw [Run.All_go, e]; rfl
  | raised t =>
    obtain ⟨e, rfl⟩ := runToken_raised h
    rfl
  | fault f => trivial

theorem fetchToken_port (s : State) : (fetchToken s).2.port = s.port := by
  obtain ⟨pos, e⟩ := fetchToken_frame s
  rw [e]; rfl

theorem importLoop_port (n : Nat) (s : State) : (importLoop n s).All (·.port = s.port) := by
  induction n generalizing s with
  | zero => rfl
  | succ n ih =>
    rw [importLoop_succ, ← fetchToken_port s]
    split
    next u hu => rw [hu]; rfl
    next i u hu =>
      rw [hu]
      refine (runToken_port i u).bind fun _ v hv => ?_
      split
      · exact hv
      · exact hv ▸ ih v

theorem tcCheck_port (s : State) : (tcCheck s).All (·.port = s.port) := by
  unfold tcCheck
  split
  · refine readNode_bind_all s.root fun n => ?_
    split <;> rfl
  · rfl

theorem decBuildRun_port (s : State) : (decBuildRun s).All (·.port = s.port) :=
  .bind (importLoop_port _ { decStart s with pend := [] }) fun _ u hu =>
  .bind (hu ▸ tcCheck_port u : (tcCheck u).All (·.port = s.port)) fun _ _ hv => hv

theorem exec_decBuild_port (h : exec .decBuild s = .next t) : t.port = s.port := by
  obtain ⟨-, e⟩ | ⟨-, e⟩ := admitted_cases (s.status.phase = .idle) s decBuildRun
  · exact (decBuildRun_port s).of_next (e.symm.trans h)
  · cases e.symm.trans h; rfl

theorem exec_decDecode_port (hs : Inv s) (hp : s.status.phase = .ready) (h : exec .decDecode s = .next t) :
    t.port = s.port := by
  obtain ⟨T, hT, -⟩ := hs.tree (hp ▸ rfl)
  cases hd : decodeBits T T (streamBits s.cfg s.input) with
  | mk out left =>
    cases left with
    | none =>
      obtain ⟨u, hu, e⟩ := decDecodeReportsTruncation s T out hs hp hT hd
      cases hu.symm.trans h
      rw [e]; rfl
    | some left =>
      obtain ⟨w, m, c, e⟩ := exec_decDecode_of_stop hs hp hT hd
      cases e.symm.trans h
      rfl

/-! ### Every command -/

theorem exec_port {i : Instr} (hs : Inv s) (hi : i.isToken = false) (h : exec i s = .next t) : t.port = s.port := by
  by_cases ha : admits i s.status.phase
  · cases i with
    | encBuild => exact exec_encBuild_port hs ha h
    | encExport => exact exec_encExport_port hs ha h
    | encEncode => exact exec_encEncode_port hs ha h
    | decBuild => exact exec_decBuild_port h
    | decDecode => exact exec_decDecode_port hs ha h
    | sessionEnd => cases (exec_sessionEnd hs.resting).symm.trans h; rfl
    | tokN | tokC | tokZ => cases hi
  · cases (exec_of_not_admits hi ha).symm.trans h
    rfl

/-- The entry to Rejected (60_exceptions.md R246): MODE is set by a build and kept by the others. -/
theorem exec_status_of_fatal {i : Instr} (hs : Inv s) (hi : i.isToken = false) (h : exec i s = .next t)
    (hf : t.status.last.fatal = true) :
    t.status = { s.status with
      phase := .rejected
      err := t.status.last
      last := t.status.last
      mode := if i = .encBuild then .encoder else if i = .decBuild then .decoder else s.status.mode } := by
  obtain ⟨-, rfl⟩ | ⟨-, ht | ⟨e, -, ht⟩⟩ := exec_status_cases hi h
  · cases hf
  · rw [ht, doneStatus_last hi] at hf
    cases hf
  · cases i with
    | sessionEnd =>
      cases (exec_sessionEnd hs.resting).symm.trans h
      cases hf
    | tokN | tokC | tokZ => cases hi
    | encBuild | encExport | encEncode | decBuild | decDecode => rw [ht]; rfl

/-- IllegalCommand is the answer to an opcode that is no command, never a command's own (60_exceptions.md R241). -/
theorem exec_last_ne_illegalCommand {i : Instr} (hi : i.isToken = false) (h : exec i s = .next t) :
    t.status.last ≠ .illegalCommand := by
  obtain ⟨-, rfl⟩ | ⟨-, ht | ⟨e, he, ht⟩⟩ := exec_status_cases hi h
  · simp
  · simp [ht, doneStatus_last hi]
  · rw [ht]
    rintro rfl
    cases he

/-- A write of a command's opcode to CMD answers what the command does, its result delivered (10_state.md R35, R49). -/
theorem command_of_exec {i : Instr} {v : Byte} (hv : decodeCommand v = .ok i) (h : exec i s = .next t) :
    command v s = .next (t.tell (.rsp t.status.last)) := by
  rw [command, issue, hv]
  exact congrArg reply h

/-- Settles O16: STATUS by what a command can leave there, CTRL and the host's lists by the port, BadState by admission. -/
theorem raiseEntersRejected : Obligations.RaiseEntersRejected := by
  intro i s t hs hi h
  obtain ⟨hctrl, hhost⟩ := Prod.mk.inj (exec_port hs hi h)
  obtain ⟨hscript, hseen⟩ := Prod.mk.inj hhost
  refine ⟨fun hf => ⟨exec_status_of_fatal hs hi h hf, hctrl, hscript, hseen, fun v hv => ?_⟩, fun hbad => ?_,
    exec_last_ne_illegalCommand hi h⟩
  · rw [command_of_exec hv h, ← hseen]
    rfl
  · by_cases ha : admits i s.status.phase
    · exact absurd hbad (exec_last_ne_badState_of_admits hi ha h)
    · cases (exec_of_not_admits hi ha).symm.trans h
      rfl

end Sys2Proof.Machine
end

section
/-! SUPPORT. The encoding in both directions (30_encoding.md R92 to R96, R102). -/

namespace Sys2Proof

/-- A byte after which no token begins is none of the three markers (30_encoding.md R102). -/
theorem decodeToken_eq_badMarker_iff {m : Byte} {rest : List Byte} :
    decodeToken (m :: rest) = .error (.badMarker m) ↔ m ≠ markerN ∧ m ≠ markerC ∧ m ≠ markerZ := by
  unfold decodeToken
  by_cases hN : m = markerN
  · simp [hN]
  by_cases hZ : m = markerZ
  · simp [hZ, show markerZ ≠ markerN by decide]
  by_cases hC : m = markerC
  · cases rest <;> simp [hC, show markerC ≠ markerN by decide, show markerC ≠ markerZ by decide]
  · simp [hN, hZ, hC]

/-- Settles O4: the three tests of the token decoder, one after the other. -/
theorem onlyThreeMarkersBeginAToken : Obligations.OnlyThreeMarkersBeginAToken :=
  fun _ _ => decodeToken_eq_badMarker_iff

/-- A command's opcode is its encoding, and only a command's. -/
theorem mem_opcodeMap_iff {b : Byte} {i : Instr} : (b, i) ∈ opcodeMap ↔ i.isToken = false ∧ encode i = [b] := by
  cases i <;> simp [opcodeMap, Instr.isToken, encode, eq_comm]

theorem exists_opcode {i : Instr} (hi : i.isToken = false) : ∃ b, encode i = [b] := by
  cases i with
  | tokN | tokC | tokZ => cases hi
  | _ => exact ⟨_, rfl⟩

/-- A command has no operand that could be out of range (30_encoding.md R91). -/
theorem wellFormed_of_command {i : Instr} (hi : i.isToken = false) : i.wellFormed = true := by
  cases i with
  | tokC => cases hi
  | _ => rfl

/-- A literal symbol is the one of the byte it is written as (30_encoding.md R95). -/
theorem literalSymbol_symbolByte {symbol : Symbol} (h : literalOk symbol = true) : literalSymbol (symbolByte symbol) = symbol := by
  have hlt : symbol.toNat < 256 := of_decide_eq_true h
  apply BitVec.eq_of_toNat_eq
  simpa [symbolByte] using hlt

/-- The token decoder reads back a well-formed token. -/
theorem decodeToken_encode {i : Instr} (hi : i.isToken = true) (hw : i.wellFormed = true) (rest : List Byte) :
    decodeToken (encode i ++ rest) = .ok (i, rest) := by
  cases i with
  | tokN => rfl
  | tokZ => rfl
  | tokC symbol => exact (decodeToken_markerC_cons _ _).trans (by rw [literalSymbol_symbolByte hw]; rfl)
  | _ => cases hi

/-- What the token decoder reads is the encoding of a well-formed token. -/
theorem encode_of_decodeToken {bytes rest : List Byte} {i : Instr} (h : decodeToken bytes = .ok (i, rest)) :
    i.wellFormed = true ∧ bytes = encode i ++ rest := by
  unfold decodeToken at h
  split at h
  · cases h
  split at h
  next hN => cases h; exact ⟨rfl, by rw [hN]; rfl⟩
  split at h
  next hZ => cases h; exact ⟨rfl, by rw [hZ]; rfl⟩
  split at h
  next hC =>
    split at h
    · cases h
    next lit rest' =>
      cases h
      exact ⟨literalOk_literalSymbol lit, by rw [hC, encode, Machine.symbolByte_literalSymbol]; rfl⟩
  · cases h

/-- No command has a marker for its opcode (30_encoding.md R90). -/
theorem decodeCommand_of_token {i : Instr} (hi : i.isToken = true) {b : Byte} {l : List Byte} (h : encode i = b :: l) :
    decodeCommand b = .error (.unassignedOpcode b) := by
  cases i with
  | tokN | tokC | tokZ => cases h; rfl
  | _ => cases hi

theorem decode_encode {i : Instr} (hw : i.wellFormed = true) (rest : List Byte) : decode (encode i ++ rest) = .ok (i, rest) := by
  by_cases hi : i.isToken = true
  · rw [← decodeToken_encode hi hw rest]
    obtain ⟨b, l, he⟩ : ∃ b l, encode i = b :: l := by cases i <;> exact ⟨_, _, rfl⟩
    rw [he, List.cons_append, decode, decodeCommand_of_token hi he]
  · have hi : i.isToken = false := Bool.eq_false_iff.mpr hi
    obtain ⟨b, he⟩ := exists_opcode hi
    rw [he, List.singleton_append, decode, decodeCommand_eq_ok_iff.mpr (mem_opcodeMap_iff.mpr ⟨hi, he⟩)]

theorem encode_of_decode {bytes rest : List Byte} {i : Instr} (h : decode bytes = .ok (i, rest)) :
    i.wellFormed = true ∧ bytes = encode i ++ rest := by
  unfold decode at h
  split at h
  · cases h
  next b l =>
    split at h
    next j hj =>
      cases h
      obtain ⟨hi, he⟩ := mem_opcodeMap_iff.mp (decodeCommand_eq_ok_iff.mp hj)
      exact ⟨wellFormed_of_command hi, by rw [he]; rfl⟩
    · exact encode_of_decodeToken h

/-- Settles O2: a command by the opcode map, a token by its marker, and no byte is both. -/
theorem decodeAndEncodeAgree : Obligations.DecodeAndEncodeAgree :=
  ⟨fun _ rest hw => decode_encode hw rest, fun _ _ _ h => encode_of_decode h⟩

/-- Settles O5: each word is laid out as its bytes, and these are decoded. -/
theorem tableWordsDecode : Obligations.TableWordsDecode := by
  unfold Obligations.TableWordsDecode
  decide

end Sys2Proof
end

section
/-! SUPPORT. The STATUS word, a step as the command or token it runs, and the invariant at reset (10_state.md R36, R48). -/

namespace Sys2Proof.Machine

/-! ### STATUS -/

section Fields

variable {n m k : Nat} {x : BitVec n} {y : BitVec m}

/-- A field that lies in the upper of two parts is found there, further down by the width of the lower. -/
theorem extract_upper (h : m ≤ k) (len : Nat) : (x ++ y).extractLsb' k len = x.extractLsb' (k - m) len :=
  BitVec.extractLsb'_append_eq_of_le h

/-- The lower of two parts is the field at bit 0. -/
theorem extract_lower : (x ++ y).extractLsb' 0 m = y := by
  rw [BitVec.extractLsb'_append_eq_of_add_le (by omega), BitVec.extractLsb'_eq_self]

theorem getLsbD_upper (h : m ≤ k) : (x ++ y).getLsbD k = x.getLsbD (k - m) := by
  rw [BitVec.getLsbD_append, if_neg (by omega)]

theorem getLsbD_lower_ofBool (b : Bool) : (x ++ BitVec.ofBool b).getLsbD 0 = b := by
  rw [BitVec.getLsbD_append, if_pos Nat.one_pos, BitVec.getLsbD_ofBool]
  rfl

end Fields

/-- The fields of STATUS at their bits (10_state.md R36): each is reached past the fields below it. -/
theorem Status.word_fields (t : Status) :
    t.word.extractLsb' 0 4 = t.phase.code ∧ t.word.extractLsb' 4 2 = t.mode.code ∧
    t.word.extractLsb' 6 4 = t.err.code ∧ t.word.getLsbD 10 = t.perrIllegal ∧
    t.word.getLsbD 11 = t.perrBadState ∧ t.word.extractLsb' 12 4 = t.last.code := by
  unfold Status.word
  refine ⟨extract_lower, ?_, ?_, ?_, ?_, ?_⟩
  · rw [extract_upper (by decide)]
    exact extract_lower
  · rw [extract_upper (by decide), extract_upper (by decide)]
    exact extract_lower
  · rw [getLsbD_upper (by decide), getLsbD_upper (by decide), getLsbD_upper (by decide)]
    exact getLsbD_lower_ofBool _
  · rw [getLsbD_upper (by decide), getLsbD_upper (by decide), getLsbD_upper (by decide), getLsbD_upper (by decide)]
    exact getLsbD_lower_ofBool _
  · rw [extract_upper (by decide), extract_upper (by decide), extract_upper (by decide), extract_upper (by decide),
      extract_upper (by decide)]
    exact BitVec.extractLsb'_eq_self

theorem Phase.resting_iff (p : Phase) : p.resting = true ↔
    p = .idle ∨ p = .treeBuilt ∨ p = .exporting ∨ p = .ready ∨ p = .done ∨ p = .rejected := sessionEnd_admits_iff p

/-- Settles O7: the fields one above the other; the resting states are those that admit SESSION_END. -/
theorem statusFieldsStandAtTheirBits : Obligations.StatusFieldsStandAtTheirBits :=
  ⟨Status.word_fields, Phase.resting_iff, rfl, rfl, rfl⟩

/-! ### A step as what it runs -/

/-- A resting block takes the head of the host's script (log 6). -/
theorem step_of_script {s : State} {a : HostAction} {rest : List HostAction} (hs : s.status.phase.resting = true)
    (h : s.script = a :: rest) : step s = hostAct a { s with script := rest } := by
  rw [step, if_pos hs, hostTurn, h]

/-- A resting block whose host has nothing to do keeps its state (log 6). -/
theorem step_of_no_script {s : State} (hs : s.status.phase.resting = true) (h : s.script = []) : step s = .next s := by
  rw [step, if_pos hs, hostTurn, h]

theorem issue_of_command {v : Byte} {i : Instr} (h : decodeCommand v = .ok i) (s : State) : issue v s = exec i s := by
  rw [issue, h]

/-- Settles O10: the host's turn is the write, the write the command, and the reply its result. -/
theorem stepRunsTheCommandWritten : Obligations.StepRunsTheCommandWritten := by
  intro s v rest i hs hscript hi
  refine ⟨?_, rfl⟩
  rw [step_of_script hs hscript]
  change reply (issue v _) = _
  rw [issue_of_command hi]
  cases exec i { s with script := rest } <;> rfl

/-- A block in a parse takes its next token (log 12). -/
theorem step_of_parsing {s : State} (hs : s.status.phase = .parsingTree) : step s = parseTurn s := by
  rw [step, if_neg (by rw [hs]; decide), if_pos hs]

/-- The token at the cursor is fetched with its bytes read (42_tree_codec.md R154). -/
theorem fetchToken_of_decode {s : State} {i : Instr} {rest : List Byte} (h : decodeToken s.mem.rest = .ok (i, rest)) :
    fetchToken s = (some i, s.skip (encode i).length) := by
  obtain ⟨-, hbytes⟩ := encode_of_decodeToken h
  refine fetchToken_of_ok hbytes (by cases i <;> simp [encode]) (hbytes ▸ h)

/-- After a token: DEC_BUILD's end where the outermost `parse` has returned, the result where it has raised, else the parse goes
on (45_decoder_commands.md R211). -/
theorem afterToken_eq (t : State) : afterToken t =
    if t.status.phase = .parsingTree then if t.pend = [] then reply (decFinish t).outcome else .next t
    else .next (t.tell (.rsp t.status.last)) := by
  simp [afterToken, reply]

/-- Settles O11: the turn of the parse is the fetch, the token and what follows it. -/
theorem stepRunsTheTokenFetched : Obligations.StepRunsTheTokenFetched := by
  intro s i rest hs hd
  rw [step_of_parsing hs, parseTurn, fetchToken_of_decode hd]
  change (match exec i (s.skip (encode i).length) with
    | .next t => afterToken t
    | .fault f => .fault f
    | .refused r => .refused r) = match exec i (s.skip (encode i).length) with | .next t => _ | .fault f => _ | .refused r => _
  cases exec i (s.skip (encode i).length) with
  | next t =>
    dsimp only
    rw [afterToken_eq]
    cases (decFinish t).outcome <;> rfl
  | fault f => rfl
  | refused r => rfl

/-! ### The invariant at reset -/

/-- Settles O19: the stores are empty, so that only the constants of 10_state.md R48 are checked. -/
theorem invariantHoldsAtReset : Obligations.InvariantHoldsAtReset := fun c =>
  { streams := rfl
    resting := rfl
    mode_idle := by simp [State.resetWith, Status.reset]
    mode_encoder := by simp [State.resetWith, Status.reset]
    mode_decoder := by simp [State.resetWith, Status.reset]
    err_rejected := by simp [State.resetWith, Status.reset]
    err_fatal := .inl rfl
    ctrl := show 0x01#8 &&& 0xFE#8 = 0#8 by decide
    locals := ⟨rfl, rfl, rfl, rfl, rfl⟩
    inCount := Nat.zero_le _
    payloadBits := Nat.two_pow_pos _
    freq := fun b => by simp [State.resetWith]
    nodeFreq := fun _ hn => by cases hn
    word := ⟨Nat.two_pow_pos _, Nat.two_pow_pos _⟩
    arena := Nat.zero_le _
    idle_clean := fun _ => ⟨rfl, rfl, rfl, rfl, rfl, rfl, rfl, rfl, rfl⟩
    tree := by simp [State.resetWith, Status.reset, Phase.holdsTree]
    leaves := by simp [State.resetWith, Status.reset] }

/-- Settles O22: what every step keeps. -/
theorem parametersAreFixed : Obligations.ParametersAreFixed := fun _ _ h => step_cfg h

/-! ### Tokens that do not complete a leaf -/

/-- Settles O51: what TC.IMPORT does at the marker `N`, with room in the arena. -/
theorem tokenNOpensANode : Obligations.TokenNOpensANode := by
  intro s hs hroom
  refine ⟨?_, rfl, fun _ _ _ _ => ⟨rfl, rfl⟩⟩
  rw [exec_token_eq_runToken .tokN s rfl hs, runToken, tokenN, if_neg hroom]
  rfl

theorem runToken_of_full {i : Instr} {s : State} (hi : i.isToken = true) (h : s.nodeN = nodeCap) :
    runToken i s = .raised (s.raise .capacityExceeded) := by
  cases i with
  | tokN => exact if_pos h
  | tokC symbol => exact if_pos h
  | tokZ => exact if_pos h
  | _ => cases hi

/-- Settles O53: each token looks for room before it allocates. -/
theorem tokenAtFullArenaIsRejected : Obligations.TokenAtFullArenaIsRejected := by
  intro i s hi hs hfull
  rw [exec_token_eq_runToken i s hi hs, runToken_of_full hi hfull]
  rfl

theorem exec_token_of_not_parsing {i : Instr} {s : State} (hi : i.isToken = true) (hs : s.status.phase ≠ .parsingTree) :
    exec i s = .next s.refuseIllegal := by
  cases i with
  | tokN | tokC | tokZ => exact if_neg hs
  | _ => cases hi

/-- Settles O54: outside a parse a token answers as an unassigned opcode. -/
theorem tokenOutsideAParseIsRefused : Obligations.TokenOutsideAParseIsRefused := fun _ _ hi hs => exec_token_of_not_parsing hi hs

end Sys2Proof.Machine
end

section
/-! SUPPORT. The commands of a block that holds a tree, and `remove_min`, each as the whole next state (40_tree_builder.md R125;
44_encoder_commands.md R194; 45_decoder_commands.md R212). -/

namespace Sys2Proof.Machine

theorem Inv.pos_add_input {s : State} (hs : Inv s) : s.mem.pos + s.input.length = s.mem.data.length := by
  have hpos := (Memory.wf_iff s.mem).mp hs.streams
  rw [State.input, List.length_drop]
  omega

/-- Settles O40: each byte's code is pushed, then the sentinel's, and the flush writes the last word. -/
theorem encEncodeWritesThePayload : Obligations.EncEncodeWritesThePayload := by
  intro s hs hp hc
  obtain ⟨hq, hpend, hstart, hacc, hcnt⟩ := hs.locals
  have hleaves := hs.leaves (.inr hp)
  rw [exec_encEncode_of_codes hp (fun b hb => hleaves.hasCode (hc b hb)) (hleaves.hasCode hleaves.2)]
  simp [State.encoded, State.dropLocals, hs.pos_add_input, hq, hpend, hstart, hacc, hcnt]

/-- Settles O56: the decode loop comes to the sentinel where the reference walk does. -/
theorem decDecodeStopsAtTheSentinel : Obligations.DecDecodeStopsAtTheSentinel := by
  intro s T emitted left hs hp hT hd
  obtain ⟨w, m, c, h⟩ := exec_decDecode_of_stop hs hp hT hd
  exact ⟨_, h, rfl⟩

/-- Settles O31: the least key is at most every key. -/
theorem removeMinTakesTheLeastKey : Obligations.RemoveMinTakesTheLeastKey := by
  intro s hq _ _
  obtain ⟨m, hgo, hm, hleast⟩ := removeMin_least hq
  refine ⟨m, hgo, hm, fun j hj nm nj hnm hnj => ?_⟩
  have hkey := hleast j hj
  rwa [State.keyLe, State.freqAt_eq hnm, State.freqAt_eq hnj] at hkey

end Sys2Proof.Machine
end

section
/-! SUPPORT. What ENC_BUILD leaves, from its stages (40_tree_builder.md R122, R124, R127; 41_code_assigner.md R142, R143). -/

namespace Sys2Proof.Machine

/-- A symbol of the table as the symbol a leaf carries. -/
theorem ofNat_toNat_symbol {x : Symbol} : BitVec.ofNat 9 x.toNat = x := BitVec.eq_of_toNat_eq (by simp)

/-- The symbols that occur are those of positive frequency (40_tree_builder.md R122). -/
theorem Tallied.mem_usedAmong_iff {s u : State} (h : Tallied s u) {x : Symbol} :
    x ∈ u.usedAmong (List.finRange 257) ↔
    0 < Machine.occurrences s.input x := by
  constructor
  · intro hx
    obtain ⟨c, hc, rfl⟩ := List.mem_map.mp hx
    exact h.occurrences c ▸ (State.mem_present.mp hc).2
  · intro hx
    have hlt : x.toNat < 257 := by
      by_contra hge
      have hne : x ≠ sentinel := fun e => hge (e ▸ by decide)
      exact absurd (occurrences_other s.input hne (by omega)) hx.ne'
    have hc : BitVec.ofNat 9 (⟨x.toNat, hlt⟩ : Fin 257).val = x := ofNat_toNat_symbol
    refine List.mem_map.mpr ⟨⟨x.toNat, hlt⟩, State.mem_present.mpr ⟨List.mem_finRange _, ?_⟩, hc⟩
    rw [h.occurrences, hc]
    exact hx

section Ends

variable {s u v w t : State} (h : Stages s u v w t)

include h

/-- LEAF_OF names a leaf exactly for the symbols of positive frequency (40_tree_builder.md R124). -/
theorem Stages.leafIndex_isSome_iff (c : Fin 257) : (t.leafIndex c).isSome = true ↔ 0 < t.freqOf c := by
  have hleaf : t.leafOf = (tbInit u).leafOf := by
    rw [h.tail_frame]
    exact (tbBuild_nodes h.empty h.build).2
  have hindex : t.leafIndex c = (tbInit u).leafIndex c := congrArg (·[c.val]) hleaf
  rw [hindex, tbInit_leafIndex h.empty, h.freqOf]
  split <;> simp_all

variable {T : Tree} (hT : Coded t.nodes t.root T 0 0)

include hT

/-- The leaves of the tree are the symbols that occur, each once (40_tree_builder.md R127). -/
theorem Stages.symbols_perm : T.symbols.Perm (u.usedAmong (List.finRange 257)) := by
  obtain ⟨T', hT', hperm⟩ := h.coded
  obtain rfl := hT.holds.unique hT'.holds
  exact hperm

theorem Stages.symbols_count (x : Symbol) : T.symbols.count x = if 0 < occurrences s.input x then 1 else 0 := by
  have hperm := h.symbols_perm hT
  have hd : T.symbols.Nodup := hperm.nodup_iff.mpr (u.usedAmong_nodup (List.nodup_finRange 257))
  simp only [hd.count, hperm.mem_iff, h.tallied.mem_usedAmong_iff]

/-- LEAF_OF leads to the leaves of the tree (10_state.md R28). -/
theorem Stages.leavesOk : t.leavesOk := by
  refine ⟨fun c i hi => ?_, (h.leafIndex_isSome_iff sentinelSymbol).mpr Nat.one_pos⟩
  have hpos : 0 < u.freqOf c := h.freqOf c ▸ (h.leafIndex_isSome_iff c).mp (hi ▸ rfl)
  have hmem : BitVec.ofNat 9 c.val ∈ T.codes.map Prod.fst := by
    rw [T.codes_symbols, (h.symbols_perm hT).mem_iff]
    exact List.mem_map_of_mem (State.mem_present.mpr ⟨List.mem_finRange c, hpos⟩)
  obtain ⟨⟨_, path⟩, hp, hsymbol⟩ := List.mem_map.mp hmem
  obtain ⟨j, n, -, hn, hk⟩ := hT.holds.follow_of_mem_codes hp
  obtain ⟨c', hc', -, hj⟩ := h.leaf hn hk
  obtain rfl : c = c' := ofNat_symbol_injective (congrArg NodeKind.leaf (hsymbol.symm.trans hc'))
  rw [BitVec.ofNat_toNat, BitVec.setWidth_eq, hi] at hj
  cases hj
  exact ⟨n, hn, hk.trans (congrArg _ hsymbol)⟩

/-- The sizes of the tree of L leaves: 2L − 1 entries, the root the last, and a header of 3L − 2 bytes
(40_tree_builder.md R127; 42_tree_codec.md R152). -/
theorem Stages.sizes (hne : s.input ≠ []) : t.nodeN = 2 * T.symbols.length - 1 ∧ t.root.toNat = 2 * T.symbols.length - 2 ∧
    t.hdrBytes.toNat = 3 * T.symbols.length - 2 ∧ t.hdrBytes.toNat = T.header.length := by
  obtain ⟨T', hacc, hT', hhdr⟩ := h.acceptable hne
  obtain rfl := hT.holds.unique hT'.holds
  obtain ⟨-, hcap, hone, -⟩ := Tree.acceptable_iff.mp hacc
  obtain ⟨l, r, hfull, hsize, -⟩ := h.fullTree hne
  obtain rfl := hT.holds.unique hfull.holds
  have hbytes : t.hdrBytes.toNat = (Tree.node l r).header.length := by
    rw [hhdr, BitVec.toNat_ofNat, Nat.mod_eq_of_lt (Tree.header_length_lt hcap)]
  have hleaves := (Tree.node l r).size_eq
  have hheader := (Tree.node l r).header_length
  have hroot := h.built_end.last
  omega

end Ends

/-- Settles O28: the stages of a build one after the other, and the verdict of the gate. -/
theorem encBuildBuildsTheTree : Obligations.EncBuildBuildsTheTree := by
  intro s hs hp hne hmax
  obtain ⟨u, v, w, t, hst, hexec, hverdict⟩ := encBuild_verdict hs hp hne hmax
  obtain ⟨T, hacc, hT, -⟩ := hst.acceptable hne
  obtain ⟨-, hcap, -⟩ := Tree.acceptable_iff.mp hacc
  obtain ⟨hnodes, hroot, hhdr, hheader⟩ := hst.sizes hT hne
  obtain ⟨hq, hpend, hstart, -⟩ := hs.locals
  have hcfg : t.cfg = s.cfg := by rw [hst.frame]
  refine ⟨t, T, hexec, hT.holds.readTree_eq (Nat.lt_succ_of_le (T.height_le_codeMax hcap)),
    fun b => (hst.freqOf _).trans (hst.tallied.freqOf b), hst.symbols_count hT, hst.leafIndex_isSome_iff, hst.leavesOk hT, hnodes,
    hroot, hhdr, hheader, hst.payloadBits hT.holds, ?_⟩
  have hstatus : t.status =
      if s.gateEn = true ∧ 8 * s.input.length ≤ 8 * t.hdrBytes.toNat + s.cfg.W * wordCount s.cfg.W t.payloadBits
      then Status.failed { s.status with mode := .encoder } .notCompressible
      else Status.passed { s.status with mode := .encoder } .treeBuilt := by
    simp only [State.oversize, hst.inCount, hcfg] at hverdict
    obtain ⟨hen, hover, e⟩ | ⟨hpass, e⟩ := hverdict
    · rw [if_pos ⟨hen, hover⟩, e]
    · rw [if_neg hpass, e]
  rw [← hstatus, ← hs.pos_add_input]
  exact hst.frame.trans (by rw [hq, hpend, hstart])

end Sys2Proof.Machine
end

section
/-! SUPPORT. The parse of any bytes: a header at the front that fits the arena, or an end at the first token that is none or finds
the arena full, with bounds on what has been read, allocated and counted by then (42_tree_codec.md R153 to R157;
70_reset_and_hazards.md R286). -/

namespace Sys2Proof.Machine

/-- A tree of n nodes has a header of at most (3n + 1) / 2 bytes and at most (n + 1) / 2 sentinel leaves. -/
theorem Tree.header_bounds (T : Tree) : 2 * T.header.length ≤ 3 * T.size + 1 ∧ 2 * T.sentinels ≤ T.size + 1 := by
  have hheader := T.header_length
  have hsize := T.size_eq
  have hle : T.sentinels ≤ T.symbols.length := List.count_le_length
  omega

/-- What a parse from `s` has done when it is cut short in `u`: `n` bytes read, the entries `more` allocated, `k` sentinel leaves
counted. A leaf is never alone before the parse is over, so that of the entries at most half are leaves. -/
structure CutShort (s u : State) (n k : Nat) (more : List Node) : Prop where
  state : u = { s.skip n with nodes := s.nodes ++ more, sentCount := s.sentCount + BitVec.ofNat 9 k }
  room : s.nodeN + more.length ≤ nodeCap
  freq : ∀ x ∈ more, x.freq = 0
  available : n ≤ s.mem.rest.length
  reads : 2 * n ≤ 3 * more.length + 4
  counted : 2 * k ≤ more.length

/-- A parse cut short at its first token. -/
theorem CutShort.first {s : State} {n : Nat} (hs : s.nodeN ≤ nodeCap) (hn : n ≤ s.mem.rest.length) (h2 : n ≤ 2) :
    CutShort s (s.skip n) n 0 [] where
  state := by simp [State.skip]
  room := hs
  freq := fun _ hx => by cases hx
  available := hn
  reads := by simp; omega
  counted := Nat.le_refl 0

section Node

variable {s u : State} {len val n k : Nat} {more : List Node} {l : List Byte}

/-- Cut short in the left sub-tree of a node. -/
theorem CutShort.left (h : CutShort (s.opened len val) u n k more) (hrest : s.mem.rest = 0x4E#8 :: l) :
    CutShort s u (1 + n) k (placedNode (.internal none none) len val :: more) where
  state := by
    rw [h.state]
    simp [State.opened, State.skip, Nat.add_assoc]
  room := by
    have := h.room
    rw [State.opened_nodeN] at this
    rw [List.length_cons]
    omega
  freq := List.forall_mem_cons.mpr ⟨rfl, h.freq⟩
  available := by
    have hle := h.available
    have hskip : (s.opened len val).mem.rest = l := State.skip_one_rest hrest
    rw [hskip] at hle
    rw [hrest, List.length_cons]
    omega
  reads := by
    have := h.reads
    rw [List.length_cons]
    omega
  counted := by
    have := h.counted
    rw [List.length_cons]
    omega

/-- Cut short in the right sub-tree of a node. -/
theorem CutShort.right {a : Tree} (h : CutShort (s.halfImported a len val) u n k more)
    (hrest : s.mem.rest = 0x4E#8 :: (a.header ++ l)) :
    CutShort s u (a.header.length + 1 + n) (a.sentinels + k)
      (placedNode (.internal (some (BitVec.ofNat 10 (s.nodeN + 1))) none) len val ::
        (a.layout (s.nodeN + 1) (len + 1) (2 * val) ++ more)) where
  state := by
    rw [h.state]
    simp [State.halfImported, State.skip, Nat.add_assoc, BitVec.add_assoc, BitVec.ofNat_add]
  room := by
    have := h.room
    rw [State.halfImported_nodeN] at this
    rw [List.length_cons, List.length_append, Tree.layout_length]
    omega
  freq := List.forall_mem_cons.mpr ⟨rfl, List.forall_mem_append.mpr ⟨a.layout_freq _ _ _, h.freq⟩⟩
  available := by
    have hle := h.available
    rw [State.halfImported_rest hrest] at hle
    rw [hrest, List.length_cons, List.length_append]
    omega
  reads := by
    have := h.reads
    have := a.header_bounds
    rw [List.length_cons, List.length_append, Tree.layout_length]
    omega
  counted := by
    have := h.counted
    have := a.header_bounds
    rw [List.length_cons, List.length_append, Tree.layout_length]
    omega

end Node

/-- The two results of a parse that is cut short (42_tree_codec.md R154, R157). -/
def Result.ofParse (e : Result) : Prop := e = .malformedTree ∨ e = .capacityExceeded

/-- The bytes ahead begin with the header of a tree for which the arena has room. -/
def HeaderAhead (s : State) : Prop :=
  ∃ (T : Tree) (more : List Byte), s.mem.rest = T.header ++ more ∧ T.symbolsOk = true ∧ s.nodeN + T.size ≤ nodeCap

/-- The parse raises one of its two errors. -/
def ParseFails (fuel len val : Nat) (s : State) : Prop :=
  ∃ e u n k more, parseRec fuel len val s = .raised (u.raise e) ∧ e.ofParse ∧ CutShort s u n k more

theorem literal_header_ahead {s : State} {b : Byte} {l : List Byte} (h : s.mem.rest = 0x43#8 :: b :: l) (hs : s.nodeN < nodeCap) :
    HeaderAhead s := by
  refine ⟨.leaf (literalSymbol b), l, ?_, ?_, hs⟩
  · rw [Tree.header_literal (literalSymbol_ne_sentinel b), h]
    exact congrArg (0x43#8 :: · :: l) (symbolByte_literalSymbol b).symm
  · have := b.isLt
    simp [Tree.symbolsOk, Tree.symbols]
    omega

/-- Every byte sequence is the one or the other to the parse. -/
theorem headerAhead_or_parseFails {fuel len val : Nat} {s : State} (hf : s.mem.rest.length < fuel) (hs : s.nodeN ≤ nodeCap) :
    HeaderAhead s ∨ ParseFails fuel len val s := by
  induction fuel generalizing len val s with
  | zero => cases hf
  | succ fuel ih =>
    have hfront := Front.of s.mem.rest
    generalize e : s.mem.rest = bytes at hfront
    cases hfront with
    | nil => exact .inr ⟨_, s.skip 0, _, _, _, parseRec_of_nil e, .inl rfl, .first hs (Nat.zero_le _) (Nat.zero_le _)⟩
    | bareC => exact .inr ⟨_, _, _, _, _, parseRec_of_bare_C e, .inl rfl, .first hs (by simp [e]) (by decide)⟩
    | other l hN hC hZ => exact .inr ⟨_, _, _, _, _, parseRec_of_other e hN hC hZ, .inl rfl, .first hs (by simp [e]) (by decide)⟩
    | C b l =>
      obtain hfull | hroom := Nat.eq_or_lt_of_le hs
      · exact .inr ⟨_, _, _, _, _, (parseRec_of_C e).trans (if_pos hfull), .inr rfl, .first hs (by simp [e]) (by decide)⟩
      · exact .inl (literal_header_ahead e hroom)
    | Z l =>
      obtain hfull | hroom := Nat.eq_or_lt_of_le hs
      · exact .inr ⟨_, _, _, _, _, (parseRec_of_Z e).trans (if_pos hfull), .inr rfl, .first hs (by simp [e]) (by decide)⟩
      · exact .inl ⟨.leaf sentinel, l, e, by decide, hroom⟩
    | N l =>
      obtain hfull | hroom := Nat.eq_or_lt_of_le hs
      · exact .inr ⟨_, _, _, _, _, (parseRec_of_N e).trans (if_pos hfull), .inr rfl, .first hs (by simp [e]) (by decide)⟩
      have hstep := (parseRec_of_N (fuel := fuel) (len := len) (val := val) e).trans (if_neg (Nat.ne_of_lt hroom))
      rw [e, List.length_cons] at hf
      obtain ⟨a, more, ha, hoka, hcapa⟩ | ⟨err, u, n, k, more, hu, herr, hcut⟩ := ih (len := len + 1) (val := 2 * val)
          (s := s.opened len val) (by rw [State.opened, State.alloc_mem, State.skip_one_rest e]; omega)
          (by rw [State.opened_nodeN]; exact hroom)
      · have hl : l = a.header ++ more := (State.skip_one_rest e).symm.trans ha
        subst hl
        rw [State.opened_nodeN] at hcapa
        rw [List.length_append] at hf
        have hleft := parseRec_header (fuel := fuel) (len := len + 1) (val := 2 * val) (s := s.opened len val)
          (State.skip_one_rest e) hoka (by rw [State.opened_nodeN]; exact hcapa) (by omega)
        obtain ⟨b, more', hb, hokb, hcapb⟩ | ⟨err, u, n, k, _, hu, herr, hcut⟩ := ih (len := len + 1) (val := 2 * val + 1)
            (s := s.halfImported a len val) (by rw [State.halfImported_rest e]; omega)
            (by rw [State.halfImported_nodeN]; exact hcapa)
        · rw [State.halfImported_rest e] at hb
          rw [State.halfImported_nodeN] at hcapb
          refine .inl ⟨.node a b, more', ?_, Tree.symbolsOk_node.mpr ⟨hoka, hokb⟩, by rw [Tree.size]; omega⟩
          rw [e, hb, Tree.header, List.cons_append, List.append_assoc]
        · refine .inr ⟨err, u, _, _, _, ?_, herr, hcut.right e⟩
          rw [hstep, parseChildren_of_left hroom hleft, hu, Run.bind_raised]
      · refine .inr ⟨err, u, _, _, _, ?_, herr, hcut.left e⟩
        rw [hstep, parseChildren, hu, Run.bind_raised]

end Sys2Proof.Machine
end

section
/-! SUPPORT. DEC_BUILD on any bytes: it takes in the tree of an acceptable header, or rejects with what a parse of at most 771 bytes
has left (42_tree_codec.md R154 to R157; 45_decoder_commands.md R211; 70_reset_and_hazards.md R286). -/

namespace Sys2Proof.Machine

/-- The state DEC_BUILD ends in when it rejects after `n` bytes: the entries, ROOT and the count of sentinels are what the parse
has reached. -/
def State.declined (e : Result) (n k : Nat) (nodes : List Node) (root : Index) (s : State) : State :=
  { s with
    nodes := nodes
    root := root
    sentCount := BitVec.ofNat 9 k
    mem := { s.mem with pos := s.mem.pos + n }
    status := Status.failed { s.status with mode := .decoder } e }

/-- DEC_BUILD from `s` rejects, having read no more than the header of a full arena could hold. -/
def Declines (s : State) : Prop :=
  ∃ e n k nodes root, exec .decBuild s = .next (s.declined e n k nodes root) ∧ e.ofParse ∧ nodes.length ≤ nodeCap ∧
    (∀ x ∈ nodes, x.freq = 0) ∧ n ≤ s.input.length ∧ n ≤ 771 ∧ k ≤ 257

theorem tcCheck_nodes (s : State) : (tcCheck s).All (·.nodes = s.nodes) := by
  unfold tcCheck
  split
  · refine readNode_bind_all s.root fun n => ?_
    split <;> rfl
  · rfl

theorem decFinish_nodes (s : State) : (decFinish s).All (·.nodes = s.nodes) := .bind (tcCheck_nodes s) fun _ _ hu => hu

variable {s : State}

/-- A header that fits but is not acceptable is declined when it has been read (42_tree_codec.md R155, R156). -/
theorem declines_of_not_acceptable {T : Tree} {more : List Byte} (hs : Inv s) (hp : s.status.phase = .idle)
    (hok : T.symbolsOk = true) (hcap : T.size ≤ nodeCap) (hno : T.acceptable ≠ true) (h : s.input = T.header ++ more) :
    Declines s := by
  have hwrong : T.sentinels ≠ 1 ∨ T.isNode = false := by
    simp only [ne_eq, Tree.acceptable_iff, hok, hcap, true_and] at hno
    exact (not_and_or.mp hno).imp id Bool.eq_false_iff.mpr
  obtain ⟨t, ht, -, hframe⟩ := wrongSentinelCountIsMalformed s T more hs hp hok hcap hwrong h
  have hnodes : t.nodes = T.layout 0 0 0 :=
    (decFinish_nodes _).of_next ((exec_decBuild_of_header hs hp hok hcap h).symm.trans ht)
  have hbounds := T.header_bounds
  rw [nodeCap] at hcap
  refine ⟨.malformedTree, T.header.length, T.sentinels, t.nodes, t.root, ht.trans (congrArg _ hframe), .inl rfl, ?_, ?_, ?_,
    by omega, Tree.sentinels_le hcap⟩
  · rw [hnodes, Tree.layout_length]
    exact hcap
  · rw [hnodes]
    exact T.layout_freq 0 0 0
  · rw [h, List.length_append]
    omega

/-- Bytes that begin with no header that fits are declined where the parse is cut short (42_tree_codec.md R154, R157). -/
theorem declines_of_parseFails (hs : Inv s) (hp : s.status.phase = .idle)
    (h : ParseFails (s.input.length + 1) 0 0 (decStart s)) : Declines s := by
  obtain ⟨-, hnodes, -⟩ := hs.idle_clean hp
  obtain ⟨hq, hpend, hstart, -⟩ := hs.locals
  have hN : (decStart s).nodeN = 0 := congrArg List.length hnodes
  obtain ⟨e, u, n, k, more, hu, he, hcut⟩ := h
  have hroom := hcut.room
  have hreads := hcut.reads
  have hcounted := hcut.counted
  rw [hN, nodeCap] at hroom
  refine ⟨e, n, k, more, s.root, ?_, he, by rw [nodeCap]; omega, hcut.freq, hcut.available, by omega, by omega⟩
  rw [exec_decBuild_eq hs hp, hu, Run.bind_raised, Run.outcome_raised, hcut.state]
  simp [State.raise, State.dropLocals, State.skip, State.declined, Status.failed, hnodes, hq, hpend, hstart]

/-- Everything DEC_BUILD can do from Idle. -/
theorem decBuild_cases (hs : Inv s) (hp : s.status.phase = .idle) :
    (∃ T more, T.acceptable = true ∧ s.input = T.header ++ more ∧ exec .decBuild s = .next (s.accepted T)) ∨ Declines s := by
  obtain ⟨-, hnodes, -⟩ := hs.idle_clean hp
  have hN : (decStart s).nodeN = 0 := congrArg List.length hnodes
  obtain ⟨T, more, h, hok, hcap⟩ | hfails := headerAhead_or_parseFails (fuel := s.input.length + 1) (len := 0) (val := 0)
      (s := decStart s) (Nat.lt_succ_self _) (by omega)
  · rw [hN, Nat.zero_add] at hcap
    by_cases hacc : T.acceptable = true
    · exact .inl ⟨T, more, hacc, h, exec_decBuild_of_acceptable hs hp hacc h⟩
    · exact .inr (declines_of_not_acceptable hs hp hok hcap hacc h)
  · exact .inr (declines_of_parseFails hs hp hfails)

/-- Settles O46: an acceptable header ahead would have been accepted, so that a rejection says there is none. -/
theorem decBuildAcceptsExactlyHeaders : Obligations.DecBuildAcceptsExactlyHeaders := by
  intro s hs hp
  obtain ⟨T, more, hT, hinput, hexec⟩ | ⟨e, n, k, nodes, root, hexec, he, -⟩ := decBuild_cases hs hp
  · obtain ⟨-, hcap, hone, -⟩ := Tree.acceptable_iff.mp hT
    exact ⟨_, hexec, rfl, .inl ⟨T, hT, ⟨more, hinput.symm⟩, State.accepted_tree? hcap, rfl⟩⟩
  · obtain ⟨-, -, -, -, -, -, hhdr, -⟩ := hs.idle_clean hp
    refine ⟨_, hexec, rfl, .inr ⟨?_, hhdr, ?_⟩⟩
    · rintro ⟨T, hT, more, hinput⟩
      have hsame := Host.Outcome.next.inj (hexec.symm.trans (exec_decBuild_of_acceptable hs hp hT hinput.symm))
      cases congrArg (·.status.phase) hsame
    · obtain rfl | rfl := he
      · exact .inl rfl
      · exact .inr rfl

end Sys2Proof.Machine
end

section
/-! SUPPORT. What the two builds and DEC_DECODE read and leave in the registers (10_state.md R41, R44; 70_reset_and_hazards.md R286). -/

namespace Sys2Proof.Machine

/-- A stream holds W bits for each whole word (20_memory.md R63). -/
theorem streamBits_length (c : Config) (bytes : List Byte) : (streamBits c bytes).length = bytes.length / c.WB * c.W := by
  simp [streamBits]

/-- The words that hold some of a stream's bits are no more than the stream's bytes. -/
theorem words_read_le (c : Config) (bytes : List Byte) (left : Nat) :
    c.WB * wordCount c.W ((streamBits c bytes).length - left) ≤ bytes.length := by
  have hle : wordCount c.W ((streamBits c bytes).length - left) ≤ bytes.length / c.WB := by
    calc wordCount c.W ((streamBits c bytes).length - left)
      _ ≤ wordCount c.W (bytes.length / c.WB * c.W) := by
        rw [streamBits_length]
        exact Nat.div_le_div_right (by omega)
      _ = bytes.length / c.WB := wordCount_whole c.W_pos
  exact (Nat.mul_le_mul_left c.WB hle).trans (Nat.mul_div_le _ _)

/-- Everything DEC_DECODE can do from Ready: it stops at the sentinel, or runs out of words (45_decoder_commands.md R212, R213). -/
theorem decDecode_cases {s : State} (hs : Inv s) (hp : s.status.phase = .ready) :
    (∃ n w m c out, exec .decDecode s = .next { s.walked n w m c out with status := s.status.passed .done } ∧
      s.mem.pos + n ≤ s.mem.data.length) ∨
    (∃ w m c out, exec .decDecode s = .next { s.ranOut w m c out with status := s.status.failed .truncatedStream }) := by
  obtain ⟨T, hT, -⟩ := hs.tree (hp ▸ rfl)
  have hinput := hs.pos_add_input
  cases hd : decodeBits T T (streamBits s.cfg s.input) with
  | mk out stop =>
    cases stop with
    | some left =>
      obtain ⟨w, m, c, h⟩ := exec_decDecode_of_stop hs hp hT hd
      have hwords := words_read_le s.cfg s.input left.length
      exact .inl ⟨_, w, m, c, out, h, by omega⟩
    | none =>
      obtain ⟨t, ht, e⟩ := decDecodeReportsTruncation s T out hs hp hT hd
      exact .inr ⟨t.word, t.mask, t.cur, out, ht.trans (congrArg _ e)⟩

/-- Settles O49: the cases of DEC_BUILD from Idle and of DEC_DECODE from Ready, none of them a fault. -/
theorem decoderIsTotalOnUntrustedInput : Obligations.DecoderIsTotalOnUntrustedInput := by
  refine fun s hs => ⟨fun hp => ?_, fun hp => ?_⟩
  · obtain ⟨T, more, hT, -, hexec⟩ | ⟨e, n, k, nodes, root, hexec, -, -, -, -, hn, -⟩ := decBuild_cases hs hp
    · obtain ⟨-, hcap, -⟩ := Tree.acceptable_iff.mp hT
      have hbounds := T.header_bounds
      rw [nodeCap] at hcap
      exact ⟨_, hexec, .inl rfl, Nat.add_le_add_left (by omega) _⟩
    · exact ⟨_, hexec, .inr rfl, Nat.add_le_add_left hn _⟩
  · obtain ⟨n, w, m, c, out, hexec, hn⟩ | ⟨w, m, c, out, hexec⟩ := decDecode_cases hs hp
    · exact ⟨_, hexec, .inl rfl, hn⟩
    · exact ⟨_, hexec, .inr rfl, Nat.le_refl _⟩

/-- The header of an acceptable tree has at most 769 bytes (10_state.md R41). -/
theorem Tree.header_length_le {T : Tree} (hT : T.acceptable = true) : T.header.length ≤ 769 := by
  obtain ⟨-, hcap, hone, -⟩ := Tree.acceptable_iff.mp hT
  have hheader := T.header_length
  have hsize := T.size_eq
  rw [nodeCap] at hcap
  omega

/-- Everything ENC_BUILD can do from Idle (44_encoder_commands.md R191). -/
theorem encBuild_cases {s : State} (hs : Inv s) (hp : s.status.phase = .idle) :
    exec .encBuild s = .next { s with status := Status.failed { s.status with mode := .encoder } .emptyInput } ∨
    (∃ t, exec .encBuild s = .next t ∧ (∀ b : Byte, t.freqOf (byteSymbol b) ≤ s.cfg.maxCount) ∧ t = { s with
      freq := t.freq, inCount := s.cfg.maxCount, mem := { s.mem with pos := s.mem.pos + s.cfg.maxCount + 1 }
      status := Status.failed { s.status with mode := .encoder } .counterOverflow } ∧ s.cfg.maxCount < s.input.length) ∨
    (∃ u v w t, exec .encBuild s = .next t ∧ Stages s u v w t ∧ s.input ≠ [] ∧ s.input.length ≤ s.cfg.maxCount ∧
      (t.status = Status.failed { s.status with mode := .encoder } .notCompressible ∨
       t.status = Status.passed { s.status with mode := .encoder } .treeBuilt)) := by
  by_cases hover : s.cfg.maxCount < s.input.length
  · obtain ⟨t, ht, hfreq, e⟩ := counterOverflowIsRaised s hs hp hover
    refine .inr (.inl ⟨t, ht, fun b => ?_, e, hover⟩)
    rw [hfreq]
    exact List.count_le_length.trans (List.length_take_le _ _)
  have hmax := Nat.le_of_not_lt hover
  by_cases hne : s.input = []
  · exact .inl (emptyInputIsRejected s hs hp hne)
  · obtain ⟨u, v, w, t, hst, ht, hverdict⟩ := encBuild_verdict hs hp hne hmax
    exact .inr (.inr ⟨u, v, w, t, ht, hst, hne, hmax, hverdict.imp (fun h => h.2.2) fun h => h.2⟩)

/-- Settles O48: the header of a tree that is accepted or built, the sentinels counted by a parse that is cut short, and in every
other case the values of Idle. -/
theorem buildRegistersStayInRange : Obligations.BuildRegistersStayInRange := by
  intro i s t hs hp hi h
  obtain ⟨-, -, -, -, -, -, hhdr, -, hsent⟩ := hs.idle_clean hp
  have hsmall : s.sentCount.toNat ≤ 257 := by rw [hsent]; decide
  obtain rfl | rfl := hi
  · obtain e | ⟨u, hu, -, e, -⟩ | ⟨u, v, w, t', ht, hst, hne, -, -⟩ := encBuild_cases hs hp
    · cases e.symm.trans h
      exact ⟨.inl hhdr, hsmall⟩
    · cases hu.symm.trans h
      rw [e]
      exact ⟨.inl hhdr, hsmall⟩
    · cases ht.symm.trans h
      obtain ⟨T, hT, -, hbytes⟩ := hst.acceptable hne
      obtain ⟨-, hcap, -⟩ := Tree.acceptable_iff.mp hT
      have hval : t.hdrBytes.toNat = T.header.length := by
        rw [hbytes, BitVec.toNat_ofNat, Nat.mod_eq_of_lt (Tree.header_length_lt hcap)]
      refine ⟨.inr ⟨hval ▸ Tree.four_le_header_length hT, hval ▸ Tree.header_length_le hT⟩, ?_⟩
      rw [hst.frame]
      exact hsmall
  · obtain ⟨T, more, hT, -, hexec⟩ | ⟨e, n, k, nodes, root, hexec, -, -, -, -, -, hk⟩ := decBuild_cases hs hp
    · cases hexec.symm.trans h
      obtain ⟨-, hcap, -⟩ := Tree.acceptable_iff.mp hT
      have hval : (s.accepted T).hdrBytes.toNat = T.header.length := by
        rw [State.accepted, BitVec.toNat_ofNat, Nat.mod_eq_of_lt (Tree.header_length_lt hcap)]
      exact ⟨.inr ⟨hval ▸ Tree.four_le_header_length hT, hval ▸ Tree.header_length_le hT⟩, show BitVec.toNat 1#9 ≤ 257 by decide⟩
    · cases hexec.symm.trans h
      exact ⟨.inl hhdr, (Nat.mod_le k _).trans hk⟩

end Sys2Proof.Machine
end

section
/-! SUPPORT. DEC_BUILD as the run of its tokens (log 12): a turn of the parse is a turn of TC.IMPORT's loop. -/

namespace Sys2Proof.Machine

theorem coreRun_succ {M : Host.Core} {s u : M.State} (h : M.step s = .next u) (k : Nat) : M.run (k + 1) s = M.run k u := by
  rw [Host.Core.run, h]

theorem run_succ_of_next {s u : State} (h : step s = .next u) (k : Nat) :
    Host.Core.run core (k + 1) s = Host.Core.run core k u := coreRun_succ (M := core) h k

/-- The block has delivered DEC_BUILD's result after so many steps beyond the first. -/
def Delivers (k : Nat) (s t : State) : Prop := Host.Core.run core (k + 1) s = .next (t.tell (.rsp t.status.last))

theorem delivers_of_step {s t : State} (h : step s = .next (t.tell (.rsp t.status.last))) : Delivers 0 s t :=
  run_succ_of_next h 0

variable {s u t : State}

/-- A turn without a token ends DEC_BUILD in MalformedTree (42_tree_codec.md R154). -/
theorem delivers_of_no_token (hs : s.status.phase = .parsingTree) (h : fetchToken s = (none, u)) :
    Delivers 0 s (u.raise .malformedTree) := by
  refine delivers_of_step ?_
  rw [step_of_parsing hs, parseTurn, h]
  rfl

/-- A turn with a token is the token, and what follows it. -/
theorem step_of_token {i : Instr} {v : State} (hs : s.status.phase = .parsingTree) (h : fetchToken s = (some i, u))
    (hrun : (runToken i u).outcome = .next v) : step s = afterToken v := by
  have hu : u.status = s.status := by rw [← fetchToken_status s, h]
  have hi : i.isToken = true := by
    unfold fetchToken at h
    split at h
    next hd => cases h; exact decodeToken_isToken hd
    next => cases h
  rw [step_of_parsing hs, parseTurn, h]
  dsimp only
  rw [exec_token_eq_runToken i u hi (hu ▸ hs), hrun]

/-- The end of DEC_BUILD delivers its result (45_decoder_commands.md R211). -/
theorem afterToken_of_finish (hs : s.status.phase = .parsingTree) (hpend : s.pend = []) (h : (decFinish s).outcome = .next t) :
    afterToken s = .next (t.tell (.rsp t.status.last)) := by
  rw [afterToken_eq, if_pos hs, if_pos hpend, h]
  rfl

/-- The run of the tokens ahead is the loop of TC.IMPORT and the end of DEC_BUILD. -/
theorem delivers_of_importLoop {n : Nat} (hn : s.mem.rest.length ≤ n) (hs : s.status.phase = .parsingTree)
    (h : ((importLoop n s).bind fun _ v => decFinish v).outcome = .next t) : ∃ k ≤ s.mem.rest.length, Delivers k s t := by
  induction n generalizing s with
  | zero =>
    have hnil := List.length_eq_zero_iff.mp (Nat.le_zero.mp hn)
    cases h
    exact ⟨0, Nat.zero_le _, delivers_of_no_token hs (fetchToken_of_nil hnil)⟩
  | succ n ih =>
    rw [importLoop_succ] at h
    cases hf : fetchToken s with
    | mk token u =>
      rw [hf] at h
      cases token with
      | none =>
        cases h
        exact ⟨0, Nat.zero_le _, delivers_of_no_token hs hf⟩
      | some i =>
        dsimp only at h
        have hlt := fetchToken_rest_lt hf
        have hu : u.status = s.status := by rw [← fetchToken_status s, hf]
        have hends := runToken_ends i u
        cases hrun : runToken i u with
        | fault f => simp [hrun] at h
        | raised v =>
          have hstep := step_of_token hs hf (congrArg Run.outcome hrun)
          rw [hrun] at h hends
          cases h
          obtain ⟨e, -, hv⟩ := hends.failed_of_raised
          refine ⟨0, Nat.zero_le _, delivers_of_step (hstep.trans ((afterToken_eq t).trans (if_neg ?_)))⟩
          simp [hv, Status.failed]
        | go _ v =>
          obtain ⟨hframe, -⟩ := runToken_frame hrun
          have hv : v.status.phase = .parsingTree := by rw [hframe, hu, hs]
          have hmem : v.mem = u.mem := by rw [hframe]
          have hstep := step_of_token hs hf (congrArg Run.outcome hrun)
          rw [hrun] at h
          by_cases hpend : v.pend = []
          · refine ⟨0, Nat.zero_le _, delivers_of_step (hstep.trans (afterToken_of_finish hv hpend ?_))⟩
            simpa [hpend] using h
          · have hnext : step s = .next v := hstep.trans (by simp [afterToken_eq, hv, hpend])
            obtain ⟨k, hk, hrec⟩ := ih (s := v) (by rw [hmem]; omega) hv (by simpa [hpend] using h)
            rw [hmem] at hk
            exact ⟨k + 1, by omega, (run_succ_of_next hnext _).trans hrec⟩

/-- Settles O55: from DEC_BUILD's start the block steps through TC.IMPORT's loop. -/
theorem decBuildIsTheRunOfItsTokens : Obligations.DecBuildIsTheRunOfItsTokens := by
  intro s hs hp
  obtain ⟨-, hpend, -⟩ := hs.locals
  obtain ⟨t, ht, -⟩ := (decoderIsTotalOnUntrustedInput s hs).1 hp
  have hrun : (decBuildRun s).outcome = .next t := by
    obtain ⟨-, e⟩ | ⟨hno, -⟩ := admitted_cases (s.status.phase = .idle) s decBuildRun
    · exact e.symm.trans ht
    · simp [hp] at hno
  have hstart : { decStart s with pend := [] } = decStart s := by rw [← hpend]; rfl
  rw [decBuildRun, tcImport, hstart] at hrun
  obtain ⟨k, hk, hdeliver⟩ := delivers_of_importLoop (Nat.le_refl _) rfl hrun
  exact ⟨t, k, ht, hdeliver, hk⟩

end Sys2Proof.Machine
end

section
/-! SUPPORT. What every command leaves of the streams, CTRL and a tree held, from any state: the builds and the tokens write nothing
to OUT, the commands of a held tree write nothing to the tree (10_state.md R26, R39; 20_memory.md R61, R64). -/

namespace Sys2Proof.Machine

/-! ### The streams -/

/-- The streams move on: the bytes of IN stay, OUT grows, and a cursor inside IN moves forward and stays inside. -/
def Memory.Onward (m m' : Memory) : Prop :=
  m'.data = m.data ∧ m.out <+: m'.out ∧ (m.wf = true → m.pos ≤ m'.pos ∧ m'.wf = true)

theorem Memory.Onward.refl (m : Memory) : m.Onward m := ⟨rfl, List.prefix_refl _, fun h => ⟨Nat.le_refl _, h⟩⟩

theorem Memory.Onward.trans {m m' m'' : Memory} (h : m.Onward m') (h' : m'.Onward m'') : m.Onward m'' := by
  obtain ⟨hdata, hout, hpos⟩ := h
  obtain ⟨hdata', hout', hpos'⟩ := h'
  refine ⟨hdata'.trans hdata, hout.trans hout', fun hw => ?_⟩
  obtain ⟨hle, hw'⟩ := hpos hw
  obtain ⟨hle', hw''⟩ := hpos' hw'
  exact ⟨hle.trans hle', hw''⟩

/-- Bytes read from those that are there. -/
theorem Memory.onward_read {m : Memory} {n : Nat} (h : n ≤ m.rest.length) : m.Onward { m with pos := m.pos + n } := by
  refine ⟨rfl, List.prefix_refl _, fun hw => ⟨Nat.le_add_right _ _, (Memory.wf_iff _).mpr ?_⟩⟩
  rw [Memory.wf_iff] at hw
  rw [Memory.rest_length] at h
  show m.pos + n ≤ m.data.length
  omega

/-- The short tail of IN consumed (20_memory.md R63). -/
theorem Memory.onward_end (m : Memory) : m.Onward { m with pos := m.data.length } :=
  ⟨rfl, List.prefix_refl _, fun hw => ⟨(Memory.wf_iff m).mp hw, (Memory.wf_iff _).mpr (Nat.le_refl _)⟩⟩

/-- Bytes written. -/
theorem Memory.onward_write (m : Memory) (bytes : List Byte) : m.Onward { m with out := m.out ++ bytes } :=
  ⟨rfl, List.prefix_append _ _, fun hw => ⟨Nat.le_refl _, hw⟩⟩

/-! ### Two ways to keep things -/

/-- From `a` on the streams have moved on without a write, and CTRL is as it was. -/
def Builds (a s : State) : Prop := a.mem.Onward s.mem ∧ s.mem.out = a.mem.out ∧ s.ctrl = a.ctrl

/-- From `a` on the streams have moved on, and CTRL and the tree are as they were. -/
def Codes (a s : State) : Prop :=
  a.mem.Onward s.mem ∧ s.ctrl = a.ctrl ∧ s.nodes = a.nodes ∧ s.root = a.root ∧ s.leafOf = a.leafOf

theorem Builds.refl (s : State) : Builds s s := ⟨.refl _, rfl, rfl⟩

theorem Codes.refl (s : State) : Codes s s := ⟨.refl _, rfl, rfl, rfl, rfl⟩

variable {a s t : State}

theorem Builds.read {n : Nat} (h : Builds a s) (hn : n ≤ s.mem.rest.length) : Builds a (s.skip n) := by
  obtain ⟨hmem, hout, hctrl⟩ := h
  exact ⟨hmem.trans (Memory.onward_read hn), hout, hctrl⟩

theorem Codes.onward (h : Codes a s) (hmem : s.mem.Onward t.mem) (ht : t = { s with
    mem := t.mem, acc := t.acc, cnt := t.cnt, word := t.word, mask := t.mask, cur := t.cur }) : Codes a t := by
  obtain ⟨hmem', hkept⟩ := h
  rw [ht]
  exact ⟨hmem'.trans hmem, hkept⟩

theorem Codes.outWrite (h : Codes a s) (bytes : List Byte) : Codes a (s.outWrite bytes) :=
  h.onward (Memory.onward_write _ _) rfl

/-! ### The builds -/

/-- The streams and CTRL. -/
def State.io (s : State) : Memory × BitVec 8 := (s.mem, s.ctrl)

variable {c : Memory × BitVec 8}

theorem removeMin_io (hs : s.io = c) : (removeMin s).All (·.io = c) := by
  obtain ⟨-, e⟩ | ⟨i, others, -, e⟩ := removeMin_cases s <;> rw [e]
  · trivial
  · exact hs

theorem tbMerge_io (hs : s.io = c) : (tbMerge s).All (·.io = c) :=
  .bind (removeMin_io hs) fun i _ h1 => .bind (removeMin_io h1) fun j _ h2 =>
  readNode_bind_all i fun _ => readNode_bind_all j fun _ => h2

theorem tbMergeAll_io (n : Nat) (hs : s.io = c) : (tbMergeAll n s).All (·.io = c) := by
  induction n generalizing s with
  | zero => exact hs
  | succ n ih =>
    unfold tbMergeAll
    split
    · exact .bind (tbMerge_io hs) fun _ _ hu => ih hu
    · exact hs

/-- The run is named by an equation for the reason given at `tbBuild_cfg`. -/
theorem tbBuild_io {r : Run Unit} (hr : tbBuild s = r) (hs : s.io = c) : r.All (·.io = c) := by
  have hmem : (tbInit s).mem = s.mem := by rw [tbInit_frame s]
  have hctrl : (tbInit s).ctrl = s.ctrl := by rw [tbInit_frame s]
  have hinit : (tbInit s).io = c := by rw [State.io, hmem, hctrl]; exact hs
  rw [← hr]
  unfold tbBuild
  generalize tbInit s = u at hinit ⊢
  refine .bind (tbMergeAll_io _ hinit) fun _ v hv => ?_
  split
  · exact hv
  · trivial

theorem caVisit_io (fuel : Nat) (i : Index) (len val : Nat) (hs : s.io = c) : (caVisit fuel i len val s).All (·.io = c) := by
  induction fuel generalizing i len val s with
  | zero => trivial
  | succ fuel ih =>
    refine readNode_bind_all i fun n => ?_
    split
    · exact hs
    · exact .bind (ih _ _ _ hs) fun _ _ hu => ih _ _ _ hu
    · trivial

theorem encTree_io (hs : s.io = c) : (encTree s).All (·.io = c) := by
  unfold encTree
  split
  · exact hs
  · generalize hr : tbBuild s = r
    refine .bind (tbBuild_io hr hs) fun _ u hu => .bind (caVisit_io (codeMax + 1) u.root 0 0 hu) fun _ v hv => ?_
    unfold encGate
    split <;> exact hv

theorem Builds.of_io (h : Builds a s) (ht : t.io = s.io) : Builds a t := by
  obtain ⟨hmem, hctrl⟩ := Prod.mk.inj ht
  obtain ⟨honward, hout, hc⟩ := h
  exact ⟨hmem ▸ honward, hmem ▸ hout, hctrl.trans hc⟩

theorem Run.All.mono {α : Type} {P Q : State → Prop} {r : Run α} (hr : r.All P) (h : ∀ u, P u → Q u) : r.All Q := by
  cases r with
  | go _ u => exact h u hr
  | raised u => exact h u hr
  | fault => trivial

theorem Builds.all_of_io {α : Type} {r : Run α} (h : Builds a s) (hr : r.All (·.io = s.io)) : r.All (Builds a) :=
  hr.mono fun _ => h.of_io

theorem tally_builds (n : Nat) (hs : Builds a s) : (tally n s).All (Builds a) := by
  induction n generalizing s with
  | zero => exact hs
  | succ n ih =>
    unfold tally
    obtain ⟨-, e⟩ | ⟨b, rest, hrest, -, e⟩ := s.inRead_cases <;> rw [e]
    · exact hs
    · have hread : Builds a (s.skip 1) := hs.read (by simp [hrest])
      obtain ⟨-, e⟩ | ⟨-, e⟩ := stCount_cases b (s.skip 1)
      · exact .bind (e ▸ hread) fun _ _ hu => ih hu
      · exact .bind (e ▸ hread) fun _ _ hu => ih hu

theorem encBuildRun_builds (hs : Builds a s) : (encBuildRun s).All (Builds a) :=
  .bind (tally_builds _ hs) fun _ _ hu => hu.all_of_io (encTree_io rfl)

theorem runToken_io (i : Instr) (s : State) : (runToken i s).All (·.io = s.io) := by
  cases h : runToken i s with
  | go _ t =>
    obtain ⟨e, -⟩ := runToken_frame h
    rw [Run.All_go, e]; rfl
  | raised t =>
    obtain ⟨e, rfl⟩ := runToken_raised h
    rfl
  | fault f => trivial

theorem fetchToken_builds (hs : Builds a s) : Builds a (fetchToken s).2 := by
  cases hd : decodeToken s.mem.rest with
  | error e =>
    rw [fetchToken_of_error hd]
    obtain ⟨-, e⟩ | ⟨b, rest, hrest, -, e⟩ := s.inRead_cases <;> rw [e]
    · exact hs
    · exact hs.read (n := 1) (by simp [hrest])
  | ok p =>
    obtain ⟨-, hbytes⟩ := encode_of_decodeToken hd
    rw [fetchToken_of_decode hd]
    exact hs.read (by rw [hbytes, List.length_append]; exact Nat.le_add_right _ _)

theorem importLoop_builds (n : Nat) (hs : Builds a s) : (importLoop n s).All (Builds a) := by
  induction n generalizing s with
  | zero => exact hs
  | succ n ih =>
    have hf := fetchToken_builds hs
    rw [importLoop_succ]
    split
    next u hu => rw [hu] at hf; exact hf
    next i u hu =>
      rw [hu] at hf
      refine .bind (hf.all_of_io (runToken_io i u)) fun _ v hv => ?_
      split
      · exact hv
      · exact ih hv

theorem decFinish_io (s : State) : (decFinish s).All (·.io = s.io) := by
  refine .bind ?_ fun _ _ hu => hu
  unfold tcCheck
  split
  · refine readNode_bind_all s.root fun n => ?_
    split <;> rfl
  · rfl

theorem decBuildRun_builds (hs : Builds a s) : (decBuildRun s).All (Builds a) :=
  .bind (importLoop_builds _ hs) fun _ u hu => hu.all_of_io (decFinish_io u)

/-! ### The commands of a held tree -/

theorem tcEmit_codes (fuel : Nat) (i : Index) (hs : Codes a s) : (tcEmit fuel i s).All (Codes a) := by
  induction fuel generalizing i s with
  | zero => trivial
  | succ fuel ih =>
    refine readNode_bind_all i fun n => ?_
    split
    · split <;> exact hs.outWrite _
    · exact .bind (ih _ (hs.outWrite _)) fun _ _ hu => ih _ hu
    · trivial

theorem encExportRun_codes (hs : Codes a s) : (encExportRun s).All (Codes a) :=
  .bind (tcEmit_codes (codeMax + 1) s.root hs) fun _ _ hu => hu

theorem pushCode_codes (i : Index) (hs : Codes a s) : (pushCode i s).All (Codes a) := by
  refine readNode_bind_all i fun n => ?_
  obtain ⟨acc, cnt, bytes, e⟩ := bpPush_frame n.codeLen.toNat n.codeVal s
  rw [e]
  exact hs.outWrite bytes

theorem encSymbol_codes (b : Byte) (hs : Codes a s) : (encSymbol b s).All (Codes a) := by
  unfold encSymbol
  split
  · exact hs
  · exact pushCode_codes _ hs

/-- The byte under the cursor read. -/
theorem Codes.inRead {b : Byte} {l : List Byte} (hs : Codes a s) (h : s.mem.rest = b :: l) : Codes a (s.skip 1) :=
  hs.onward (Memory.onward_read (by simp [h])) rfl

theorem packLoop_codes (n : Nat) (hs : Codes a s) : (packLoop n s).All (Codes a) := by
  induction n generalizing s with
  | zero => exact hs
  | succ n ih =>
    unfold packLoop
    obtain ⟨-, e⟩ | ⟨b, rest, hrest, -, e⟩ := s.inRead_cases <;> rw [e]
    · exact hs
    · exact .bind (encSymbol_codes b (hs.inRead hrest)) fun _ _ hu => ih hu

/-- ENC_ENCODE behind the last byte (44_encoder_commands.md R194). -/
def encEncodeEnd (s : State) : Run Unit := (pushSentinel s).bind fun _ u => .go () ((bpFlush u).retOk .done)

theorem encEncodeEnd_codes (hs : Codes a s) : (encEncodeEnd s).All (Codes a) := by
  refine .bind ?_ fun _ u hu => ?_
  · unfold pushSentinel
    split
    · trivial
    · exact pushCode_codes _ hs
  · obtain ⟨-, e⟩ | ⟨-, e⟩ := bpFlush_cases u <;> rw [e]
    · exact hu
    · exact hu.outWrite _

theorem encEncodeRun_eq (s : State) :
    encEncodeRun s = (packLoop s.mem.rest.length (bpReset (s.setPhase .packing))).bind fun _ u => encEncodeEnd u := rfl

theorem encEncodeRun_codes (hs : Codes a s) : (encEncodeRun s).All (Codes a) :=
  .bind (packLoop_codes _ hs) fun _ _ hu => encEncodeEnd_codes hu

theorem buLoad_codes (hs : Codes a s) : (buLoad s).All (Codes a) := by
  obtain ⟨hle, e⟩ | ⟨-, e⟩ := buLoad_cases s <;> rw [e]
  · exact hs.onward (Memory.onward_read hle) rfl
  · exact hs.onward (t := { s with mem := { s.mem with pos := s.mem.data.length } }) (Memory.onward_end _) rfl

theorem buStep_codes (hs : Codes a s) : (buStep s).All (Codes a) := by
  cases h : buStep s with
  | go stop t =>
    obtain ⟨i, bytes, rfl⟩ := buStep_frame h
    exact hs.outWrite bytes
  | raised t => exact absurd h buStep_not_raised
  | fault f => trivial

theorem buWalk_codes (n : Nat) (hs : Codes a s) : (buWalk n s).All (Codes a) := by
  induction n generalizing s with
  | zero => exact hs
  | succ n ih =>
    unfold buWalk
    split
    · exact hs
    · refine .bind (buStep_codes hs) fun stop _ hu => ?_
      split
      · exact hu
      · exact ih hu

theorem buLoop_codes (n : Nat) (hs : Codes a s) : (buLoop n s).All (Codes a) := by
  induction n generalizing s with
  | zero => exact .bind (buLoad_codes hs) fun _ _ hu => hu
  | succ n ih =>
    refine .bind (buLoad_codes hs) fun _ u hu => .bind (buWalk_codes _ hu) fun stop _ hv => ?_
    split
    · exact hv
    · exact ih hv

theorem decDecodeRun_codes (hs : Codes a s) : (decDecodeRun s).All (Codes a) :=
  .bind (buLoop_codes _ hs : (buRun (s.setPhase .decoding)).All (Codes a)) fun _ _ hu => hu

/-! ### Instructions -/

theorem admitted_all {P : State → Prop} {ok : Bool} {run : State → Run Unit} (hr : (run s).All P) (hrefuse : P s.refuseBadState)
    (h : admitted ok s run = .next t) : P t := by
  obtain ⟨-, e⟩ | ⟨-, e⟩ := admitted_cases ok s run <;> rw [e] at h
  · exact hr.of_next h
  · cases h; exact hrefuse

/-- The instructions that write nothing to OUT: the builds, SESSION_END and the header tokens. -/
theorem exec_builds {i : Instr} (h1 : i ≠ .encExport) (h2 : i ≠ .encEncode) (h3 : i ≠ .decDecode) (h : exec i s = .next t) :
    Builds s t := by
  have htoken (hi : i.isToken = true) : Builds s t := by
    by_cases hp : s.status.phase = .parsingTree
    · exact ((Builds.refl s).all_of_io (runToken_io i s)).of_next ((exec_token_eq_runToken i s hi hp).symm.trans h)
    · cases (exec_token_of_not_parsing hi hp).symm.trans h
      exact .refl s
  cases i with
  | encBuild => exact admitted_all (encBuildRun_builds (.refl s)) (.refl s) h
  | decBuild => exact admitted_all (decBuildRun_builds (.refl s)) (.refl s) h
  | sessionEnd => exact admitted_all (run := fun u => .go () u.endSession) (P := Builds s) (.refl s) (.refl s) h
  | tokN | tokC | tokZ => exact htoken rfl
  | encExport => exact absurd rfl h1
  | encEncode => exact absurd rfl h2
  | decDecode => exact absurd rfl h3

/-- The commands of a held tree. -/
theorem exec_codes {i : Instr} (hi : i = .encExport ∨ i = .encEncode ∨ i = .decDecode) (h : exec i s = .next t) : Codes s t := by
  obtain rfl | rfl | rfl := hi
  · exact admitted_all (encExportRun_codes (.refl s)) (.refl s) h
  · exact admitted_all (encEncodeRun_codes (.refl s)) (.refl s) h
  · exact admitted_all (decDecodeRun_codes (.refl s)) (.refl s) h

/-- Every instruction is of one of the two ways. -/
theorem exec_builds_or_codes {i : Instr} (h : exec i s = .next t) : Builds s t ∨ Codes s t := by
  by_cases hi : i = .encExport ∨ i = .encEncode ∨ i = .decDecode
  · exact .inr (exec_codes hi h)
  · simp only [not_or] at hi
    obtain ⟨h1, h2, h3⟩ := hi
    exact .inl (exec_builds h1 h2 h3 h)

theorem exec_onward {i : Instr} (h : exec i s = .next t) : s.mem.Onward t.mem := (exec_builds_or_codes h).elim And.left And.left

theorem exec_ctrl {i : Instr} (h : exec i s = .next t) : t.ctrl = s.ctrl :=
  (exec_builds_or_codes h).elim (fun hb => hb.2.2) fun hc => hc.2.1

/-! ### The statements -/

/-- Settles O9: a write is a mask of bit 0, and every instruction keeps CTRL. -/
theorem ctrlKeepsOnlyGateEn : Obligations.CtrlKeepsOnlyGateEn := by
  refine ⟨fun s v => ⟨s.writeCtrl v, rfl, rfl, ?_, ?_⟩, fun _ _ _ h => exec_ctrl h⟩
  · show (v &&& 0x01#8).toNat = v.toNat % 2
    rw [BitVec.toNat_and]
    exact Nat.and_one_is_mod _
  · show (v &&& 0x01#8).getLsbD 0 = v.getLsbD 0
    rw [BitVec.getLsbD_and]
    exact Bool.and_true _

/-- Settles O12: the host's actions are what they are, every instruction moves the streams on, and SESSION_END and `rst` keep
them. -/
theorem hostStreamActions : Obligations.HostStreamActions := by
  refine ⟨fun _ _ => ⟨rfl, rfl, rfl, rfl⟩, fun i s t hw h => ?_, fun s t h => ?_, fun s hs => ?_⟩
  · obtain ⟨hdata, -, hpos⟩ := exec_onward h
    obtain ⟨hle, hwf⟩ := hpos hw
    exact ⟨hdata, hle, hwf⟩
  · obtain h | h := h
    · rw [exec_sessionEnd_eq] at h
      exact admitted_all (P := fun u => u.mem = s.mem) (run := fun u => .go () u.endSession) rfl rfl h
    · cases h; rfl
  · exact ⟨fun _ _ h => step_of_script hs h, fun h => step_of_no_script hs h⟩

/-- Settles O24: OUT moves on with the streams, and stays where nothing is written. -/
theorem outOnlyGrows : Obligations.OutOnlyGrows := by
  intro i s t h
  obtain ⟨-, hout, -⟩ := exec_onward h
  refine ⟨hout, fun h1 h2 h3 => ?_⟩
  obtain ⟨-, hsame, -⟩ := exec_builds h1 h2 h3 h
  exact hsame

/-- Settles O23: the builds and the tokens are refused while a tree is held, and the other commands keep it. -/
theorem treeIsNotModifiedWhileHeld : Obligations.TreeIsNotModifiedWhileHeld := by
  intro i s t hs hne h
  have hidle : s.status.phase ≠ .idle := fun e => by simp [e, Phase.holdsTree] at hs
  have hparsing : s.status.phase ≠ .parsingTree := fun e => by simp [e, Phase.holdsTree] at hs
  have hcodes (hi : i = .encExport ∨ i = .encEncode ∨ i = .decDecode) : t.nodes = s.nodes ∧ t.root = s.root ∧ t.leafOf = s.leafOf := by
    obtain ⟨-, -, htree⟩ := exec_codes hi h
    exact htree
  cases i with
  | encExport => exact hcodes (.inl rfl)
  | encEncode => exact hcodes (.inr (.inl rfl))
  | decDecode => exact hcodes (.inr (.inr rfl))
  | encBuild =>
    cases (exec_of_not_admits (i := .encBuild) rfl hidle).symm.trans h
    exact ⟨rfl, rfl, rfl⟩
  | decBuild =>
    cases (exec_of_not_admits (i := .decBuild) rfl hidle).symm.trans h
    exact ⟨rfl, rfl, rfl⟩
  | tokN | tokC | tokZ =>
    cases (exec_token_of_not_parsing rfl hparsing).symm.trans h
    exact ⟨rfl, rfl, rfl⟩
  | sessionEnd => exact absurd rfl hne

end Sys2Proof.Machine
end

section
/-! SUPPORT. The invariant after a command (10_state.md R20 to R45): what of it concerns the stores, said apart from what concerns
STATUS, and then each command by the states it can end in. -/

namespace Sys2Proof.Machine

/-- What the invariant says of the stores, whatever STATUS says. -/
structure Stores (s : State) : Prop where
  streams : s.mem.wf = true
  ctrl : s.ctrl &&& 0xFE#8 = 0#8
  locals : s.q = [] ∧ s.pend = [] ∧ s.hdrStart = 0 ∧ s.acc = 0 ∧ s.cnt = 0
  inCount : s.inCount ≤ s.cfg.maxCount
  payloadBits : s.payloadBits < 2 ^ (s.cfg.FW + 8)
  freq : ∀ b : Fin 256, s.freq[b] ≤ s.inCount
  nodeFreq : ∀ n ∈ s.nodes, n.freq < 2 ^ s.cfg.FW
  word : s.word < 2 ^ s.cfg.W ∧ s.mask < 2 ^ s.cfg.W
  arena : s.nodeN ≤ nodeCap

variable {s t : State}

theorem Inv.stores (hs : Inv s) : Stores s := { hs with }

/-- An end in Rejected: what is left of the session is not looked at (60_exceptions.md R246). -/
theorem Stores.inv_of_failed (h : Stores t) {σ : Status} {e : Result} (hmode : σ.mode ≠ .none) (he : e.fatal = true)
    (ht : t.status = σ.failed e) : Inv t :=
  { h with
    resting := by rw [ht]; rfl
    mode_idle := by simp [ht, Status.failed, hmode]
    mode_encoder := by simp [ht, Status.failed]
    mode_decoder := by simp [ht, Status.failed]
    err_rejected := by simp [ht, Status.failed, Result.ne_ok_of_fatal he]
    err_fatal := by simp [ht, Status.failed, he]
    idle_clean := by simp [ht, Status.failed]
    tree := by simp [ht, Status.failed, Phase.holdsTree]
    leaves := by simp [ht, Status.failed] }

/-- A tree is held as the invariant says. -/
def TreeHeld (t : State) : Prop := ∃ T, t.tree? = some T ∧ T.isNode = true ∧ t.hdrBytes.toNat = T.header.length

/-- TreeBuilt and Exporting are states of an encode session, whose tree LEAF_OF leads to (10_state.md R28, R36). -/
theorem Stores.inv_of_encoding (h : Stores t) {σ : Status} {p : Phase} (hp : p = .treeBuilt ∨ p = .exporting)
    (hmode : σ.mode = .encoder) (herr : σ.err = .ok) (htree : TreeHeld t) (hleaves : t.leavesOk) (ht : t.status = σ.passed p) :
    Inv t := by
  have hidle : p ≠ .idle := by rintro rfl; simp at hp
  have hready : p ≠ .ready := by rintro rfl; simp at hp
  have hrejected : p ≠ .rejected := by rintro rfl; simp at hp
  exact { h with
    resting := by rw [ht]; obtain rfl | rfl := hp <;> rfl
    mode_idle := by simp [ht, Status.passed, hmode, hidle]
    mode_encoder := fun _ => by rw [ht]; exact hmode
    mode_decoder := by simp [ht, Status.passed, hready]
    err_rejected := by simp [ht, Status.passed, herr, hrejected]
    err_fatal := by simp [ht, Status.passed, herr]
    idle_clean := by simp [ht, Status.passed, hidle]
    tree := fun _ => htree
    leaves := fun _ => hleaves }

/-- Done keeps the tree of its session (10_state.md R26). -/
theorem Stores.inv_of_done (h : Stores t) {σ : Status} (hmode : σ.mode ≠ .none) (herr : σ.err = .ok) (htree : TreeHeld t)
    (ht : t.status = σ.passed .done) : Inv t :=
  { h with
    resting := by rw [ht]; rfl
    mode_idle := by simp [ht, Status.passed, hmode]
    mode_encoder := by simp [ht, Status.passed]
    mode_decoder := by simp [ht, Status.passed]
    err_rejected := by simp [ht, Status.passed, herr]
    err_fatal := by simp [ht, Status.passed, herr]
    idle_clean := by simp [ht, Status.passed]
    tree := fun _ => htree
    leaves := by simp [ht, Status.passed] }

theorem Inv.err_ok (hs : Inv s) (hp : s.status.phase ≠ .rejected) : s.status.err = .ok :=
  of_not_not (mt hs.err_rejected.mp hp)

theorem Inv.mode_ne_none (hs : Inv s) (hp : s.status.phase ≠ .idle) : s.status.mode ≠ .none := mt hs.mode_idle.mp hp

/-! ### Reset, SESSION_END and the refusals -/

/-- A state as after reset but for ROOT, CUR, CTRL, the streams and the host. -/
theorem inv_of_reset (c : Config) (root cur : Index) {ctrl : BitVec 8} {mem : Memory} (script : List HostAction)
    (seen : List HostEvent) (draws : Nat) (hctrl : ctrl &&& 0xFE#8 = 0#8) (hmem : mem.wf = true) :
    Inv { State.resetWith c with
      root := root, cur := cur, ctrl := ctrl, mem := mem, script := script, seen := seen, draws := draws } :=
  { invariantHoldsAtReset c with
    streams := hmem
    ctrl := hctrl }

theorem Inv.endSession (hs : Inv s) : Inv s.endSession := inv_of_reset s.cfg _ _ _ _ _ hs.ctrl hs.streams

theorem Inv.refuseBadState (hs : Inv s) : Inv s.refuseBadState := { hs with }

theorem Inv.refuseIllegal (hs : Inv s) : Inv s.refuseIllegal := { hs with }

/-! ### ENC_EXPORT and ENC_ENCODE -/

/-- Bytes written, and STATUS. -/
theorem Stores.of_streams (h : Stores s) {mem : Memory} (hmem : mem.wf = true) (σ : Status) :
    Stores { s with mem := mem, status := σ } := { h with streams := hmem }

theorem encExport_next (hs : Inv s) (hp : s.status.phase = .treeBuilt) :
    ∃ t, exec .encExport s = .next t ∧ t.status = s.status.passed .exporting ∧ Inv t := by
  obtain ⟨T, hT, -, hexec⟩ := encExportWritesTheHeader s hs hp
  exact ⟨_, hexec, rfl, (hs.stores.of_streams (mem := { s.mem with out := s.mem.out ++ T.header }) hs.streams _).inv_of_encoding
    (.inr rfl) (hs.mode_encoder (.inl hp)) (hs.err_ok (by simp [hp])) (hs.tree (hp ▸ rfl)) (hs.leaves (.inl hp)) rfl⟩

/-- Everything ENC_ENCODE can do in Exporting: every byte has a code, or there is a first one without (44_encoder_commands.md R194,
R196). -/
theorem encEncode_cases (hs : Inv s) (hp : s.status.phase = .exporting) :
    ∃ n out σ, exec .encEncode s = .next { s with mem := ⟨s.mem.data, n, out⟩, status := σ } ∧ n ≤ s.mem.data.length ∧
      (σ = s.status.passed .done ∨ σ = s.status.failed .noCode) := by
  cases hfind : s.input.find? fun b => !(s.leafIndex (byteSymbol b)).isSome with
  | none =>
    have hcodes := List.find?_eq_none.mp hfind
    exact ⟨_, _, _, encEncodeWritesThePayload s hs hp fun b hb => by simpa [Option.isSome_iff_ne_none] using hcodes b hb,
      Nat.le_refl _, .inl rfl⟩
  | some b =>
    obtain ⟨hb, before, after, hinput, hcodes⟩ := List.find?_eq_some_iff_append.mp hfind
    have hlen := congrArg List.length hinput
    have htotal := hs.pos_add_input
    rw [List.length_append, List.length_cons] at hlen
    exact ⟨_, _, _, byteWithoutCodeIsRejected s before after b hs hp hinput (fun x hx => by simpa using hcodes x hx)
      (by simpa using hb), by omega, .inr rfl⟩

theorem encEncode_next (hs : Inv s) (hp : s.status.phase = .exporting) :
    ∃ t, exec .encEncode s = .next t ∧ (t.status = s.status.passed .done ∨ t.status = s.status.failed .noCode) ∧ Inv t := by
  obtain ⟨n, out, σ, hexec, hn, hσ⟩ := encEncode_cases hs hp
  have hstores := hs.stores.of_streams (mem := ⟨s.mem.data, n, out⟩) ((Memory.wf_iff _).mpr hn) σ
  have hmode : s.status.mode ≠ .none := hs.mode_ne_none (by simp [hp])
  refine ⟨_, hexec, hσ, ?_⟩
  obtain rfl | rfl := hσ
  · exact hstores.inv_of_done hmode (hs.err_ok (by simp [hp])) (hs.tree (hp ▸ rfl)) rfl
  · exact hstores.inv_of_failed hmode rfl rfl

/-! ### DEC_DECODE -/

/-- WORD and MASK fit W bits (10_state.md R31). -/
def State.wordFits (s : State) : Prop := s.word < 2 ^ s.cfg.W ∧ s.mask < 2 ^ s.cfg.W

theorem buLoad_wordFits (hs : s.wordFits) : (buLoad s).All State.wordFits := by
  obtain ⟨hle, e⟩ | ⟨-, e⟩ := buLoad_cases s <;> rw [e]
  · refine ⟨bytesWord_lt (List.length_take_of_le hle), ?_⟩
    show 1 <<< (s.cfg.W - 1) < 2 ^ s.cfg.W
    rw [Nat.one_shiftLeft]
    exact Nat.pow_lt_pow_right (by decide) (Nat.sub_one_lt s.cfg.W_pos.ne')
  · exact hs

theorem buStep_wordFits (hs : s.wordFits) : (buStep s).All State.wordFits := by
  cases h : buStep s with
  | go stop t =>
    obtain ⟨i, bytes, rfl⟩ := buStep_frame h
    exact ⟨hs.1, (Nat.shiftRight_le s.mask 1).trans_lt hs.2⟩
  | raised t => exact absurd h buStep_not_raised
  | fault f => trivial

theorem buWalk_wordFits (n : Nat) (hs : s.wordFits) : (buWalk n s).All State.wordFits := by
  induction n generalizing s with
  | zero => exact hs
  | succ n ih =>
    unfold buWalk
    split
    · exact hs
    · refine .bind (buStep_wordFits hs) fun stop _ hu => ?_
      split
      · exact hu
      · exact ih hu

theorem buLoop_wordFits (n : Nat) (hs : s.wordFits) : (buLoop n s).All State.wordFits := by
  induction n generalizing s with
  | zero => exact .bind (buLoad_wordFits hs) fun _ _ hu => hu
  | succ n ih =>
    refine .bind (buLoad_wordFits hs) fun _ u hu => .bind (buWalk_wordFits _ hu) fun stop _ hv => ?_
    split
    · exact hv
    · exact ih hv

theorem exec_decDecode_wordFits (hs : s.wordFits) (h : exec .decDecode s = .next t) : t.wordFits := by
  have hrun : (decDecodeRun s).All State.wordFits :=
    .bind (buLoop_wordFits _ ⟨Nat.two_pow_pos _, Nat.two_pow_pos _⟩ : (buRun (s.setPhase .decoding)).All State.wordFits)
      fun _ _ hu => hu
  exact admitted_all hrun hs h

theorem decDecode_next (hs : Inv s) (hp : s.status.phase = .ready) :
    ∃ t, exec .decDecode s = .next t ∧ (t.status = s.status.passed .done ∨ t.status = s.status.failed .truncatedStream) ∧
      Inv t := by
  have hmode : s.status.mode ≠ .none := hs.mode_ne_none (by simp [hp])
  obtain ⟨n, w, m, c, out, hexec, hn⟩ | ⟨w, m, c, out, hexec⟩ := decDecode_cases hs hp
  · have hword := exec_decDecode_wordFits hs.word hexec
    have hstores : Stores { s.walked n w m c out with status := s.status.passed .done } :=
      { hs.stores with streams := (Memory.wf_iff _).mpr hn, word := hword }
    exact ⟨_, hexec, .inl rfl, hstores.inv_of_done hmode (hs.err_ok (by simp [hp])) (hs.tree (hp ▸ rfl)) rfl⟩
  · have hword := exec_decDecode_wordFits hs.word hexec
    have hstores : Stores { s.ranOut w m c out with status := s.status.failed .truncatedStream } :=
      { hs.stores with streams := (Memory.wf_iff _).mpr (Nat.le_refl _), word := hword }
    exact ⟨_, hexec, .inr rfl, hstores.inv_of_failed hmode rfl rfl⟩

/-! ### DEC_BUILD -/

theorem decBuild_next (hs : Inv s) (hp : s.status.phase = .idle) :
    ∃ t, exec .decBuild s = .next t ∧
      (t.status = Status.passed { s.status with mode := .decoder } .ready ∨
       ∃ e : Result, e.ofParse ∧ t.status = Status.failed { s.status with mode := .decoder } e) ∧ Inv t := by
  obtain ⟨T, more, hT, hinput, hexec⟩ | ⟨e, n, k, nodes, root, hexec, he, hcap, hfreq, hn, -⟩ := decBuild_cases hs hp
  · exact ⟨_, hexec, .inl rfl, hs.accepted hT hinput hp⟩
  · have htotal := hs.pos_add_input
    have hstores : Stores (s.declined e n k nodes root) :=
      { hs.stores with
        streams := (Memory.wf_iff _).mpr (show s.mem.pos + n ≤ s.mem.data.length by omega)
        nodeFreq := fun x hx => by rw [hfreq x hx]; exact Nat.two_pow_pos _
        arena := hcap }
    have hfatal : e.fatal = true := by obtain rfl | rfl := he <;> rfl
    exact ⟨_, hexec, .inr ⟨e, he, rfl⟩, hstores.inv_of_failed (σ := { s.status with mode := .decoder }) (by simp) hfatal rfl⟩

/-! ### ENC_BUILD -/

/-- An element of a list and the rest of it. -/
theorem add_sum_erase_freqs {s : State} {q : List Index} {i : Index} (hi : i ∈ q) :
    s.freqAt i + ((q.erase i).map s.freqAt).sum = (q.map s.freqAt).sum := List.sum_map_erase s.freqAt hi

/-- No entry of a build weighs more than all the symbols together (10_state.md R23). -/
theorem tbMergeAll_freq_le {table : State} {fuel : Nat} (hs : Growing table s)
    (hle : ∀ n ∈ s.nodes, n.freq ≤ ∑ c, table.freqOf c) (h : tbMergeAll fuel s = .go () t) :
    ∀ n ∈ t.nodes, n.freq ≤ ∑ c, table.freqOf c := by
  induction fuel generalizing s with
  | zero => cases h; exact hle
  | succ fuel ih =>
    by_cases h2 : 1 < s.q.length
    · rw [tbMergeAll_succ fuel h2] at h
      obtain ⟨u, hu, hgrow, -⟩ := tbMerge_growing hs h2
      obtain ⟨a, b, ha, hb, -, -, hmerge⟩ := tbMerge_least h2 hs.valid
      rw [hu, Run.bind_go] at h
      cases hu.symm.trans hmerge
      refine ih hgrow (fun n hn => ?_) h
      obtain hn | hn := List.mem_append.mp hn
      · exact hle n hn
      · rw [List.mem_singleton.mp hn, ← hs.weight, ← add_sum_erase_freqs ha, ← add_sum_erase_freqs hb]
        exact Nat.add_le_add_left (Nat.le_add_right _ _) _
    · rw [tbMergeAll, if_neg h2] at h
      cases h; exact hle

theorem tbBuild_freq_le (hs : s.nodes = []) (h : tbBuild s = .go () t) : ∀ n ∈ t.nodes, n.freq ≤ ∑ c, s.freqOf c := by
  unfold tbBuild at h
  obtain ⟨_, u, hu, h⟩ := Run.bind_eq_go h
  have hinit : ∀ n ∈ (tbInit s).nodes, n.freq ≤ ∑ c, s.freqOf c := fun n hn => by
    rw [tbInit_nodes hs] at hn
    obtain ⟨c, -, rfl⟩ := List.mem_map.mp hn
    exact Finset.single_le_sum (f := s.freqOf) (fun _ _ => Nat.zero_le _) (Finset.mem_univ c)
  have hle := tbMergeAll_freq_le (tbInit_growing hs) hinit hu
  split at h
  · cases h; exact hle
  · cases h

theorem Tree.code_length_le {T : Tree} {c : Symbol × List Bool} (h : c ∈ T.codes) : c.2.length ≤ T.height := by
  induction T generalizing c with
  | leaf =>
    rw [Tree.codes, List.mem_singleton] at h
    simp [h]
  | node l r ihl ihr =>
    simp only [Tree.codes, List.mem_append, List.mem_map] at h
    obtain ⟨c, hc, rfl⟩ | ⟨c, hc, rfl⟩ := h
    · exact Nat.succ_le_succ ((ihl hc).trans (Nat.le_max_left _ _))
    · exact Nat.succ_le_succ ((ihr hc).trans (Nat.le_max_right _ _))

/-- Each of the input's codes and the sentinel's has at most CODE_MAX bits (10_state.md R42). -/
theorem EncTree.payloadBits_le {bytes : List Byte} {T : Tree} (h : EncTree bytes t T) :
    t.payloadBits ≤ (bytes.length + 1) * codeMax := by
  have hlits : (bytes.map fun b => (t.codeOf (byteSymbol b)).length).sum ≤ bytes.length * codeMax := by
    refine (List.sum_le_card_nsmul _ codeMax fun k hk => ?_).trans_eq (by simp)
    obtain ⟨b, hb, rfl⟩ := List.mem_map.mp hk
    exact (Tree.code_length_le (h.literals b hb)).trans h.height
  have hstop := (Tree.code_length_le h.stop).trans h.height
  rw [h.payload, List.length_append, List.length_flatMap, Nat.add_mul, Nat.one_mul]
  exact Nat.add_le_add hlits hstop

/-- Of 2^FW − 2 and one there are fewer than 2^FW. -/
theorem Config.succ_lt_of_le_maxCount {c : Config} {n : Nat} (h : n ≤ c.maxCount) : n + 1 < 2 ^ c.FW := by
  have htwo : 2 ^ 1 ≤ 2 ^ c.FW := Nat.pow_le_pow_right (by decide) c.FW_legal
  rw [Config.maxCount] at h
  omega

theorem State.freq_le_of_freqOf {n : Nat} (h : ∀ b : Byte, s.freqOf (byteSymbol b) ≤ n) (b : Fin 256) : s.freq[b] ≤ n := by
  have hb := h (BitVec.ofFin b)
  rw [State.freqOf_byteSymbol] at hb
  exact hb

section Ends

variable {u v w : State} (h : Stages s u v w t)

include h

theorem Stages.nodeFreq (hmax : s.input.length ≤ s.cfg.maxCount) : ∀ n ∈ t.nodes, n.freq < 2 ^ s.cfg.FW := by
  intro n hn
  obtain ⟨k, hk⟩ := List.mem_iff_getElem?.mp hn
  obtain ⟨n', hn', -, hfreq⟩ := entry_of_recoded h.recoded.symm hk
  have hle := tbBuild_freq_le h.empty h.build n' (List.mem_of_getElem? hn')
  rw [h.tallied.sum_freqOf, hfreq] at hle
  exact hle.trans_lt (Config.succ_lt_of_le_maxCount hmax)

/-- The stores after a build (10_state.md R22, R23, R40, R42). -/
theorem Stages.stores (hs : Inv s) (hne : s.input ≠ []) (hmax : s.input.length ≤ s.cfg.maxCount) : Stores t := by
  obtain ⟨T, henc⟩ := h.encTree hne
  obtain ⟨-, -, -, -, hcap⟩ := h.fullTree hne
  have hcfg : t.cfg = s.cfg := by rw [h.frame]
  have hmem : t.mem = { s.mem with pos := s.mem.pos + s.input.length } := by rw [h.frame]
  exact {
    streams := by rw [hmem]; exact (Memory.wf_iff _).mpr hs.pos_add_input.le
    ctrl := by rw [h.frame]; exact hs.ctrl
    locals := by
      obtain ⟨-, -, -, hacc, hcnt⟩ := hs.locals
      rw [h.frame]
      exact ⟨rfl, rfl, rfl, hacc, hcnt⟩
    inCount := by rw [h.inCount, hcfg]; exact hmax
    payloadBits := by
      have hlt := Config.succ_lt_of_le_maxCount hmax
      have hle := henc.payloadBits_le
      rw [hcfg, Nat.pow_add]
      rw [codeMax] at hle
      omega
    freq := State.freq_le_of_freqOf fun b => by
      rw [h.freqOf, h.tallied.freqOf, h.inCount]
      exact List.count_le_length
    nodeFreq := by rw [hcfg]; exact h.nodeFreq hmax
    word := by rw [h.frame]; exact hs.word
    arena := hcap }

theorem Stages.treeHeld (hne : s.input ≠ []) : TreeHeld t := by
  obtain ⟨T, henc⟩ := h.encTree hne
  obtain ⟨-, -, -, hnode⟩ := Tree.acceptable_iff.mp henc.acceptable
  exact ⟨T, henc.tree?, hnode, henc.header⟩

end Ends

/-- The results with which ENC_BUILD can fail (60_exceptions.md R242, R243, R248). -/
def Result.ofEncBuild (e : Result) : Prop := e = .emptyInput ∨ e = .counterOverflow ∨ e = .notCompressible

theorem encBuild_next (hs : Inv s) (hp : s.status.phase = .idle) :
    ∃ t, exec .encBuild s = .next t ∧
      (t.status = Status.passed { s.status with mode := .encoder } .treeBuilt ∨
       ∃ e : Result, e.ofEncBuild ∧ t.status = Status.failed { s.status with mode := .encoder } e) ∧ Inv t := by
  have hmode : ({ s.status with mode := .encoder } : Status).mode ≠ .none := by simp
  obtain hexec | ⟨t, hexec, hfreq, hframe, hover⟩ | ⟨u, v, w, t, hexec, hst, hne, hmax, hfailed | hpassed⟩ := encBuild_cases hs hp
  · have hstores := hs.stores.of_streams (mem := s.mem) hs.streams (Status.failed { s.status with mode := .encoder } .emptyInput)
    exact ⟨_, hexec, .inr ⟨_, .inl rfl, rfl⟩, hstores.inv_of_failed hmode rfl rfl⟩
  · have hstatus : t.status = Status.failed { s.status with mode := .encoder } .counterOverflow := by rw [hframe]
    have hstores : Stores t := by
      have htotal := hs.pos_add_input
      rw [hframe]
      exact { hs.stores with
        streams := (Memory.wf_iff _).mpr (show s.mem.pos + s.cfg.maxCount + 1 ≤ s.mem.data.length by omega)
        inCount := Nat.le_refl _
        freq := State.freq_le_of_freqOf (s := t) hfreq }
    exact ⟨t, hexec, .inr ⟨_, .inr (.inl rfl), hstatus⟩, hstores.inv_of_failed hmode rfl hstatus⟩
  · exact ⟨t, hexec, .inr ⟨_, .inr (.inr rfl), hfailed⟩, (hst.stores hs hne hmax).inv_of_failed hmode rfl hfailed⟩
  · obtain ⟨T, henc⟩ := hst.encTree hne
    exact ⟨t, hexec, .inl hpassed, (hst.stores hs hne hmax).inv_of_encoding (σ := { s.status with mode := .encoder })
      (.inl rfl) rfl (hs.err_ok (by simp [hp])) (hst.treeHeld hne) (hst.leavesOk henc.coded) hpassed⟩

/-! ### Every command -/

/-- From every state that meets the invariant a command goes on, to a state that meets it. -/
theorem exec_next {i : Instr} (hs : Inv s) (hi : i.isToken = false) : ∃ t, exec i s = .next t ∧ Inv t := by
  by_cases ha : admits i s.status.phase
  · cases i with
    | encBuild => exact (encBuild_next hs ha).imp fun _ ⟨ht, _, hinv⟩ => ⟨ht, hinv⟩
    | encExport => exact (encExport_next hs ha).imp fun _ ⟨ht, _, hinv⟩ => ⟨ht, hinv⟩
    | encEncode => exact (encEncode_next hs ha).imp fun _ ⟨ht, _, hinv⟩ => ⟨ht, hinv⟩
    | decBuild => exact (decBuild_next hs ha).imp fun _ ⟨ht, _, hinv⟩ => ⟨ht, hinv⟩
    | decDecode => exact (decDecode_next hs ha).imp fun _ ⟨ht, _, hinv⟩ => ⟨ht, hinv⟩
    | sessionEnd => exact ⟨_, exec_sessionEnd hs.resting, hs.endSession⟩
    | tokN | tokC | tokZ => cases hi
  · exact ⟨_, exec_of_not_admits hi ha, hs.refuseBadState⟩

/-- Settles O18: each command by the states it can end in, the refusals by their whole states. -/
theorem commandTransitions : Obligations.CommandTransitions := by
  refine fun s hs => ⟨fun hp => ?_, fun hp => ?_, fun hp => ?_, fun hp => ?_, fun hp => ?_,
    ⟨_, exec_sessionEnd hs.resting, rfl, rfl, rfl⟩, fun i hi ha => ⟨_, exec_of_not_admits hi ha, rfl, rfl⟩,
    fun v hv => ⟨_, issue_of_no_command s hv, rfl, rfl⟩⟩
  · obtain ⟨t, ht, e | ⟨err, herr, e⟩, -⟩ := encBuild_next hs hp <;> refine ⟨t, ht, ?_⟩ <;> rw [e]
    · exact ⟨rfl, .inl ⟨rfl, rfl⟩⟩
    · exact ⟨rfl, .inr ⟨rfl, herr⟩⟩
  · obtain ⟨t, ht, e, -⟩ := encExport_next hs hp
    exact ⟨t, ht, by rw [e]; exact ⟨rfl, rfl⟩⟩
  · obtain ⟨t, ht, e | e, -⟩ := encEncode_next hs hp <;> refine ⟨t, ht, ?_⟩ <;> rw [e]
    · exact .inl ⟨rfl, rfl⟩
    · exact .inr ⟨rfl, rfl⟩
  · obtain ⟨t, ht, e | ⟨err, herr, e⟩, -⟩ := decBuild_next hs hp <;> refine ⟨t, ht, ?_⟩ <;> rw [e]
    · exact ⟨rfl, .inl ⟨rfl, rfl⟩⟩
    · exact ⟨rfl, .inr ⟨rfl, herr⟩⟩
  · obtain ⟨t, ht, e | e, -⟩ := decDecode_next hs hp <;> refine ⟨t, ht, ?_⟩ <;> rw [e]
    · exact .inl ⟨rfl, rfl⟩
    · exact .inr ⟨rfl, rfl⟩

end Sys2Proof.Machine
end

section
/-! SUPPORT. The accesses of a command (log 8): from each of its points to the next the streams move on, so that all of the accesses
lead to the streams it leaves (20_memory.md R73, R78; 70_reset_and_hazards.md R272). -/

namespace Sys2Proof.Machine

/-! ### Traces -/

/-- From each state of a list to the next the streams move on. -/
def Stepwise (s : State) (l : List State) : Prop := (s :: l).IsChain fun a b => a.mem.Onward b.mem

theorem stepwise_singleton {s t : State} : Stepwise s [t] ↔ s.mem.Onward t.mem := by simp [Stepwise]

theorem stepwise_cons {s t : State} {l : List State} : Stepwise s (t :: l) ↔ s.mem.Onward t.mem ∧ Stepwise t l :=
  List.isChain_cons_cons

theorem Stepwise.of_mem {s s' : State} {l : List State} (h : Stepwise s' l) (hmem : s'.mem = s.mem) : Stepwise s l := by
  cases l with
  | nil => exact List.isChain_singleton s
  | cons t l =>
    obtain ⟨hstep, hrest⟩ := stepwise_cons.mp h
    exact stepwise_cons.mpr ⟨hmem ▸ hstep, hrest⟩

/-- A trace looks at the streams of its first state only. -/
theorem trace_of_mem {s s' : State} (hmem : s'.mem = s.mem) (l : List State) : trace s' l = trace s l := by
  cases l with
  | nil => rfl
  | cons t l => rw [trace, trace, stretch, stretch, hmem]

/-- The accesses of a trace lead from its first state to its last. -/
theorem perform_trace {s t : State} {l : List State} (hw : s.mem.wf = true) (h : Stepwise s (l ++ [t])) :
    s.mem.perform (trace s (l ++ [t])) = t.mem := by
  have hstretch {a b : State} (hab : a.mem.Onward b.mem) (ha : a.mem.wf = true) : a.mem.perform (stretch a b) = b.mem := by
    obtain ⟨hdata, hout, hpos⟩ := hab
    exact perform_stretch hdata (hpos ha).1 hout
  induction l generalizing s with
  | nil =>
    have hstep := stepwise_singleton.mp h
    rw [List.nil_append, trace, trace, List.append_nil, hstretch hstep hw]
  | cons p l ih =>
    obtain ⟨hstep, hrest⟩ := stepwise_cons.mp h
    obtain ⟨-, -, hpos⟩ := id hstep
    rw [List.cons_append, trace, Memory.perform_append, hstretch hstep hw, ih (hpos hw).2 hrest]

/-! ### The points of ENC_ENCODE and DEC_DECODE -/

variable {s t : State}

/-- A command without points in between goes from its start to its end. -/
theorem stepwise_of_run {r : Run Unit} (hr : r.All (Codes s)) (h : r.outcome = .next t) : Stepwise s [t] :=
  stepwise_singleton.mpr (hr.of_next h).1

theorem packPoints_of_nil (n : Nat) (h : s.mem.rest = []) : packPoints n s = [] := by
  cases n with
  | zero => rfl
  | succ n => rw [packPoints, State.inRead_of_nil h]

theorem packPoints_of_cons {n : Nat} {b : Byte} {l : List Byte} (h : s.mem.rest = b :: l) :
    (∀ {u : State}, encSymbol b (s.skip 1) = .go () u → packPoints (n + 1) s = u :: packPoints n u) ∧
    (∀ {u : State}, encSymbol b (s.skip 1) = .raised u → packPoints (n + 1) s = []) := by
  constructor <;> intro u hu <;> rw [packPoints, State.inRead_of_cons h] <;> dsimp only <;> rw [hu]

/-- The packing loop, one byte after the other, and what comes after it. -/
theorem packPoints_stepwise {k : State → Run Unit} (hk : ∀ u, (k u).All (Codes u)) {n : Nat}
    (h : ((packLoop n s).bind fun _ u => k u).outcome = .next t) : Stepwise s (packPoints n s ++ [t]) := by
  induction n generalizing s with
  | zero => exact stepwise_of_run (hk s) h
  | succ n ih =>
    cases hrest : s.mem.rest with
    | nil =>
      rw [packLoop, State.inRead_of_nil hrest] at h
      rw [packPoints_of_nil _ hrest]
      exact stepwise_of_run (hk s) h
    | cons b l =>
      have hcodes := encSymbol_codes b ((Codes.refl s).inRead hrest)
      obtain ⟨hgo, hraised⟩ := packPoints_of_cons (n := n) hrest
      rw [packLoop_of_cons hrest] at h
      cases hsym : encSymbol b (s.skip 1) with
      | go _ u =>
        rw [hsym] at h hcodes
        rw [hgo hsym]
        exact stepwise_cons.mpr ⟨hcodes.1, ih h⟩
      | raised u =>
        rw [hsym] at h hcodes
        cases h
        rw [hraised hsym]
        exact stepwise_singleton.mpr hcodes.1
      | fault f => rw [hsym] at h; cases h

theorem wordPoints_of_le (n : Nat) (h : s.cfg.WB ≤ s.mem.rest.length) {stop : Bool} {u : State}
    (hu : buWalk s.cfg.W s.loaded = .go stop u) : wordPoints (n + 1) s = u :: (if stop then [] else wordPoints n u) := by
  rw [wordPoints, buLoad_of_le h]
  dsimp only
  change buWalk s.loaded.cfg.W s.loaded = _ at hu
  rw [hu]

theorem wordPoints_of_lt (n : Nat) (h : s.mem.rest.length < s.cfg.WB) : wordPoints n s = [] := by
  cases n with
  | zero => rfl
  | succ n => rw [wordPoints, buLoad_of_lt h]

theorem buWalk_not_raised {n : Nat} : buWalk n s ≠ .raised t := by
  induction n generalizing s with
  | zero => intro h; cases h
  | succ n ih =>
    intro h
    rw [buWalk] at h
    split at h
    · cases h
    · obtain h | ⟨stop, u, -, h⟩ := Run.bind_eq_raised h
      · exact buStep_not_raised h
      · cases stop
        · exact ih h
        · cases h

/-- DEC_DECODE behind its loop (45_decoder_commands.md R212). -/
def decDecodeEnd (s : State) : Run Unit := .go () (s.retOk .done)

/-- A turn of the decode loop that has a word to load, and the rest of the command. -/
theorem buLoop_turn {n : Nat} (hle : s.cfg.WB ≤ s.mem.rest.length)
    (h : ((buLoop (n + 1) s).bind fun _ u => decDecodeEnd u).outcome = .next t) :
    ∃ stop u, buWalk s.cfg.W s.loaded = .go stop u ∧
      ((if stop then .go () u else buLoop n u : Run Unit).bind fun _ v => decDecodeEnd v).outcome = .next t := by
  rw [buLoop_of_le n hle] at h
  cases hwalk : buWalk s.cfg.W s.loaded with
  | go stop u => exact ⟨stop, u, rfl, by rw [hwalk] at h; exact h⟩
  | raised u => exact absurd hwalk buWalk_not_raised
  | fault f => rw [hwalk] at h; cases h

theorem loaded_codes (hle : s.cfg.WB ≤ s.mem.rest.length) : Codes s s.loaded := by
  have hload := buLoad_codes (Codes.refl s)
  rwa [buLoad_of_le hle] at hload

theorem buLoop_codes_next {n : Nat} (h : ((buLoop n s).bind fun _ u => decDecodeEnd u).outcome = .next t) : Codes s t :=
  (Run.All.bind (buLoop_codes n (.refl s)) fun _ _ hu => hu : ((buLoop n s).bind fun _ u => decDecodeEnd u).All (Codes s)).of_next h

/-- The decode loop, one word after the other, and the end of the command. -/
theorem wordPoints_stepwise {n : Nat} (h : ((buLoop n s).bind fun _ u => decDecodeEnd u).outcome = .next t) :
    Stepwise s (wordPoints n s ++ [t]) := by
  induction n generalizing s with
  | zero => exact stepwise_singleton.mpr (buLoop_codes_next h).1
  | succ n ih =>
    obtain hlt | hle := Nat.lt_or_ge s.mem.rest.length s.cfg.WB
    · rw [wordPoints_of_lt _ hlt]
      exact stepwise_singleton.mpr (buLoop_codes_next h).1
    · obtain ⟨stop, u, hwalk, h⟩ := buLoop_turn hle h
      have hcodes := buWalk_codes s.cfg.W (loaded_codes hle)
      rw [hwalk] at hcodes
      rw [wordPoints_of_le n hle hwalk]
      refine stepwise_cons.mpr ⟨hcodes.1, ?_⟩
      cases stop with
      | true => cases h; exact stepwise_singleton.mpr (Memory.Onward.refl _)
      | false => exact ih h

/-! ### Every command -/

theorem points_encEncode (hp : s.status.phase = .exporting) :
    points .encEncode s = packPoints s.mem.rest.length (bpReset (s.setPhase .packing)) := if_pos hp

theorem points_decDecode (hp : s.status.phase = .ready) :
    points .decDecode s = wordPoints (s.mem.rest.length / s.cfg.WB) (buStart (s.setPhase .decoding)) := if_pos hp

/-- A command passes on from point to point. -/
theorem points_stepwise {i : Instr} (h : exec i s = .next t) : Stepwise s (points i s ++ [t]) := by
  cases i with
  | encEncode =>
    by_cases hp : s.status.phase = .exporting
    · rw [exec_encEncode_eq hp, encEncodeRun_eq] at h
      rw [points_encEncode hp]
      exact (packPoints_stepwise (fun u => encEncodeEnd_codes (.refl u)) h).of_mem rfl
    · rw [points, if_neg hp]
      exact stepwise_singleton.mpr (exec_onward h)
  | decDecode =>
    by_cases hp : s.status.phase = .ready
    · rw [exec_decDecode_eq hp] at h
      rw [points_decDecode hp]
      exact (wordPoints_stepwise (s := buStart (s.setPhase .decoding)) h).of_mem rfl
    · rw [points, if_neg hp]
      exact stepwise_singleton.mpr (exec_onward h)
  | encBuild | encExport | decBuild | sessionEnd | tokN | tokC | tokZ => exact stepwise_singleton.mpr (exec_onward h)

/-- The accesses of an opcode lead to the streams it leaves. -/
theorem perform_commandAccesses {v : Byte} (hw : s.mem.wf = true) (h : issue v s = .next t) :
    s.mem.perform (commandAccesses v s t) = t.mem := by
  unfold commandAccesses
  unfold issue at h
  split
  next i hi =>
    rw [hi] at h
    exact perform_trace hw (points_stepwise h)
  next e he =>
    rw [he] at h
    cases h
    rfl

/-! ### Reads before writes -/

/-- Nothing comes before the first read. -/
def ReadsFirst (l : List Access) : Prop := l = [] ∨ ∃ l', l = .read :: l'

theorem ReadsFirst.append {l : List Access} (h : ReadsFirst l) (hne : l ≠ []) (k : List Access) : ReadsFirst (l ++ k) := by
  obtain rfl | ⟨l', rfl⟩ := h
  · exact absurd rfl hne
  · exact .inr ⟨l' ++ k, rfl⟩

/-- A stretch that has read something starts with it. -/
theorem trace_readsFirst {p : State} (l : List State) (h : s.mem.pos < p.mem.pos) : ReadsFirst (trace s (p :: l)) := by
  obtain ⟨k, hk⟩ := Nat.exists_eq_add_of_lt h
  refine .inr ⟨List.replicate k .read ++ (p.mem.out.drop s.mem.out.length).map .write ++ trace p l, ?_⟩
  rw [trace, stretch, hk, show s.mem.pos + k + 1 - s.mem.pos = k + 1 by omega]
  rfl

/-- A stretch without a write is reads only. -/
theorem trace_readsFirst_of_out (h : t.mem.out = s.mem.out) : ReadsFirst (trace s [t]) := by
  rw [trace, trace, stretch, h, List.drop_length, List.map_nil, List.append_nil, List.append_nil]
  cases t.mem.pos - s.mem.pos with
  | zero => exact .inl rfl
  | succ k => exact .inr ⟨_, rfl⟩

/-- DEC_DECODE writes nothing before it has read a word (43_bit_packer_unpacker.md R179). -/
theorem wordPoints_readsFirst {n : Nat} (hw : s.mem.wf = true) (hn : s.mem.rest.length < (n + 1) * s.cfg.WB)
    (h : ((buLoop n s).bind fun _ u => decDecodeEnd u).outcome = .next t) : ReadsFirst (trace s (wordPoints n s ++ [t])) := by
  obtain hlt | hle := Nat.lt_or_ge s.mem.rest.length s.cfg.WB
  · have hraise : ((buLoop n s).bind fun _ u => decDecodeEnd u) =
        .raised ((s.ranOut s.word s.mask s.cur []).raise .truncatedStream) := by
      cases n <;> rw [buLoop, buLoad_of_lt hlt] <;> rfl
    rw [hraise] at h
    cases h
    rw [wordPoints_of_lt n hlt]
    exact trace_readsFirst_of_out (List.append_nil _)
  · cases n with
    | zero => omega
    | succ n =>
      obtain ⟨stop, u, hwalk, -⟩ := buLoop_turn hle h
      have hcodes := buWalk_codes s.cfg.W (Codes.refl s.loaded)
      rw [hwalk] at hcodes
      obtain ⟨-, -, hload⟩ := (loaded_codes hle).1
      obtain ⟨-, -, hpos⟩ := hcodes.1
      obtain ⟨hforward, -⟩ := hpos (hload hw).2
      have hWB := s.cfg.WB_pos
      change s.mem.pos + s.cfg.WB ≤ u.mem.pos at hforward
      rw [wordPoints_of_le n hle hwalk]
      exact trace_readsFirst _ (by omega)

theorem decDecode_readsFirst (hw : s.mem.wf = true) (h : exec .decDecode s = .next t) :
    ReadsFirst (trace s (points .decDecode s ++ [t])) := by
  by_cases hp : s.status.phase = .ready
  · rw [exec_decDecode_eq hp] at h
    rw [points_decDecode hp, ← trace_of_mem (s := s) (s' := buStart (s.setPhase .decoding)) rfl]
    exact wordPoints_readsFirst (s := buStart (s.setPhase .decoding)) hw
      (Nat.lt_mul_of_div_lt (Nat.lt_succ_self _) s.cfg.WB_pos) h
  · cases (exec_of_not_admits (i := .decDecode) rfl hp).symm.trans h
    rw [points, if_neg hp]
    exact trace_readsFirst_of_out rfl

/-- A prefix of such accesses that has read nothing has written nothing. -/
theorem ReadsFirst.perform_take {l : List Access} (h : ReadsFirst l) {m : Memory} {k : Nat}
    (hpos : (m.perform (l.take k)).pos = m.pos) : (m.perform (l.take k)).out = m.out := by
  obtain rfl | ⟨l', rfl⟩ := h
  · rw [List.take_nil, Memory.perform_nil]
  · cases k with
    | zero => rfl
    | succ k =>
      rw [List.take_succ_cons, Memory.perform_cons] at hpos
      obtain ⟨-, hle, -⟩ := Memory.perform_grows (m.access .read) (l'.take k)
      rw [hpos] at hle
      exact absurd hle (Nat.not_succ_le_self m.pos)

/-! ### Reset during a command -/

/-- An opcode, assigned or not, is answered with a next state that meets the invariant. -/
theorem issue_next (hs : Inv s) (v : Byte) : ∃ t, issue v s = .next t ∧ Inv t := by
  cases hv : decodeCommand v with
  | ok i =>
    obtain ⟨hi, -⟩ := mem_opcodeMap_iff.mp (decodeCommand_eq_ok_iff.mp hv)
    obtain ⟨t, ht, hinv⟩ := exec_next hs hi
    exact ⟨t, (issue_of_command hv s).trans ht, hinv⟩
  | error e => exact ⟨_, issue_of_no_command s (by simp [hv]), hs.refuseIllegal⟩

theorem rstDuring_of_issue {v : Byte} (h : issue v s = .next t) : rstDuring v s = .next (cutOff v s t) := by
  rw [rstDuring, h]

/-- Settles O13: the accesses up to the cut are a prefix, and the rest of them leads on to the command's end. -/
theorem resetCutsACommandOff : Obligations.ResetCutsACommandOff := by
  intro s v hs
  obtain ⟨u, hu, -⟩ := issue_next hs v
  have hall := perform_commandAccesses hs.streams hu
  obtain ⟨hdata, hle, hout⟩ := Memory.perform_grows s.mem ((commandAccesses v s u).take (Config.freeCount s.draws))
  obtain ⟨hle', hout'⟩ := Memory.perform_take s.mem (commandAccesses v s u) (Config.freeCount s.draws)
  rw [hall] at hle' hout'
  refine ⟨u, _, hu, rstDuring_of_issue hu, State.resetWith_values s.cfg, hdata, hle, hle', hout, hout', rfl, rfl, rfl,
    ⟨_, _, (List.take_append_drop (Config.freeCount s.draws) _).symm, rfl, ?_⟩, fun hv hpos => ?_⟩
  · exact hall.symm.trans (by rw [cutOff, ← Memory.perform_append, List.take_append_drop])
  · rw [issue_of_command hv] at hu
    have hreads := decDecode_readsFirst hs.streams hu
    have hacc : commandAccesses v s u = trace s (points .decDecode s ++ [u]) := by rw [commandAccesses, hv]
    rw [← hacc] at hreads
    exact hreads.perform_take hpos

end Sys2Proof.Machine
end

section
/-! SUPPORT. A step of a block that meets the invariant is the host's turn, and every action of the host goes on and keeps the
invariant (46_session_commands.md R228; 20_memory.md R76). -/

namespace Sys2Proof.Machine

variable {s : State}

theorem Inv.tell (hs : Inv s) (e : HostEvent) : Inv (s.tell e) := { hs with }

theorem Inv.withScript (hs : Inv s) (script : List HostAction) : Inv { s with script := script } := { hs with }

/-- Other streams of the form the spec asks for. -/
theorem Inv.withMem (hs : Inv s) {mem : Memory} (hmem : mem.wf = true) : Inv { s with mem := mem } := { hs with streams := hmem }

/-- Bit 0 of a value is outside bits 7:1 (10_state.md R39). -/
theorem Inv.writeCtrl (hs : Inv s) (v : Byte) : Inv (s.writeCtrl v) := by
  have hctrl : v &&& 0x01#8 &&& 0xFE#8 = 0#8 := (BitVec.and_assoc ..).trans BitVec.and_zero
  exact { hs with ctrl := hctrl }

theorem Inv.resetBlock (hs : Inv s) : Inv s.resetBlock :=
  inv_of_reset s.cfg _ _ _ _ _ (show 0x01#8 &&& 0xFE#8 = 0#8 by decide) hs.streams

theorem Inv.cutOff (hs : Inv s) {v : Byte} {t : State} (ht : issue v s = .next t) (hinv : Inv t) : Inv (cutOff v s t) := by
  refine inv_of_reset s.cfg _ _ _ _ _ (show 0x01#8 &&& 0xFE#8 = 0#8 by decide) ((Memory.wf_iff _).mpr ?_)
  obtain ⟨hdata, -⟩ := Memory.perform_grows s.mem ((commandAccesses v s t).take (Config.freeCount s.draws))
  obtain ⟨hall, -⟩ := Memory.perform_grows s.mem (commandAccesses v s t)
  obtain ⟨hle, -⟩ := Memory.perform_take s.mem (commandAccesses v s t) (Config.freeCount s.draws)
  rw [perform_commandAccesses hs.streams ht] at hle hall
  rw [hdata, ← hall]
  exact hle.trans ((Memory.wf_iff _).mp hinv.streams)

theorem regWrite_next (hs : Inv s) (n : Nat) (v : Byte) : ∃ t, regWrite n v s = .next t ∧ Inv t := by
  unfold regWrite
  split
  · obtain ⟨t, ht, hinv⟩ := issue_next hs v
    exact ⟨_, by rw [command, ht]; rfl, hinv.tell _⟩
  · exact ⟨_, rfl, hs.writeCtrl v⟩
  · exact ⟨s, rfl, hs⟩

theorem hostAct_next (hs : Inv s) (a : HostAction) : ∃ t, hostAct a s = .next t ∧ Inv t := by
  cases a with
  | attachIn bytes => exact ⟨_, rfl, hs.withMem (s.attachIn_wf bytes)⟩
  | rewind => exact ⟨_, rfl, hs.withMem s.rewind_wf⟩
  | attachOut => exact ⟨_, rfl, hs.withMem (s.attachOut_wf hs.streams)⟩
  | takeOut => exact ⟨_, rfl, hs.tell _⟩
  | regRead n => exact ⟨_, rfl, hs.tell _⟩
  | regWrite n v => exact regWrite_next hs n v
  | stopUnlessOk n =>
    refine ⟨_, rfl, ?_⟩
    split
    · exact hs
    · exact hs.withScript _
  | rst => exact ⟨_, rfl, hs.resetBlock⟩
  | rstDuring v =>
    obtain ⟨t, ht, hinv⟩ := issue_next hs v
    exact ⟨_, rstDuring_of_issue ht, hs.cutOff ht hinv⟩

/-- From every state that meets the invariant a step goes on, to a state that meets it. -/
theorem step_next (hs : Inv s) : ∃ t, step s = .next t ∧ Inv t := by
  cases hscript : s.script with
  | nil => exact ⟨s, step_of_no_script hs.resting hscript, hs⟩
  | cons a rest =>
    rw [step_of_script hs.resting hscript]
    exact hostAct_next (hs.withScript rest) a

/-- Settles O20: the step's one next state meets the invariant. -/
theorem stepKeepsTheInvariant : Obligations.StepKeepsTheInvariant := by
  intro s t hs h
  obtain ⟨u, hu, hinv⟩ := step_next hs
  cases hu.symm.trans h
  exact hinv

/-- Settles O21: the host's turn goes on whatever the host does. -/
theorem stepNeverStops : Obligations.StepNeverStops := fun _ hs => (step_next hs).imp fun _ h => h.1

end Sys2Proof.Machine
end

section
/-! SUPPORT. Weighted path lengths from below (40_tree_builder.md R131): a tree is here no more than its leaves' depths with their
weights, and what makes such a list a tree's is the Kraft inequality. The two least weights can be moved to the greatest depths,
and then be joined one level up, at no cost but their sum, which is what a merge pays. -/

namespace Sys2Proof.Machine

/-! ### Depths and weights -/

/-- The weighted path length of a list of depths with weights. -/
def pathLength (l : List (Nat × Nat)) : Nat := (l.map fun p => p.1 * p.2).sum

theorem pathLength_cons (p : Nat × Nat) (l : List (Nat × Nat)) : pathLength (p :: l) = p.1 * p.2 + pathLength l := rfl

theorem pathLength_perm {l k : List (Nat × Nat)} (h : l.Perm k) : pathLength l = pathLength k :=
  (h.map fun p : Nat × Nat => p.1 * p.2).sum_eq

/-- The Kraft inequality, both sides times 2^n for an n that no depth exceeds (41_code_assigner.md R145). -/
def Kraft (depths : List Nat) : Prop := ∃ n, (∀ d ∈ depths, d ≤ n) ∧ (depths.map fun d => 2 ^ (n - d)).sum ≤ 2 ^ n

theorem Kraft.perm {k l : List Nat} (h : Kraft k) (hp : k.Perm l) : Kraft l := by
  obtain ⟨n, hle, hsum⟩ := h
  exact ⟨n, fun d hd => hle d (hp.mem_iff.mpr hd), ((hp.map fun d => 2 ^ (n - d)).sum_eq).symm.trans_le hsum⟩

/-- Where no depth exceeds `e`, every term of the Kraft sum is a multiple of that of `e`. -/
theorem dvd_kraft_sum {n e : Nat} {depths : List Nat} (hle : ∀ d ∈ depths, d ≤ e) :
    2 ^ (n - e) ∣ (depths.map fun d => 2 ^ (n - d)).sum := by
  refine List.dvd_sum fun x hx => ?_
  obtain ⟨d, hd, rfl⟩ := List.mem_map.mp hx
  exact Nat.pow_dvd_pow 2 (Nat.sub_le_sub_left (hle d hd) n)

/-- A multiple that is below a multiple is below it by the factor at least. -/
theorem add_le_of_lt_of_dvd {g a b : Nat} (ha : g ∣ a) (hb : g ∣ b) (h : a < b) : a + g ≤ b := by
  obtain ⟨x, rfl⟩ := ha
  obtain ⟨y, rfl⟩ := hb
  have hxy : x + 1 ≤ y := Nat.lt_of_mul_lt_mul_left h
  calc g * x + g = g * (x + 1) := (Nat.mul_succ g x).symm
    _ ≤ g * y := Nat.mul_le_mul_left g hxy

/-- Two leaves at the greatest depths can be joined one level above the lesser of the two. -/
theorem Kraft.join {d e : Nat} {depths : List Nat} (h : Kraft (d :: e :: depths)) (hde : e ≤ d) (hle : ∀ x ∈ depths, x ≤ e) :
    ∃ k, e = k + 1 ∧ Kraft (k :: depths) := by
  obtain ⟨n, hn, hsum⟩ := h
  obtain ⟨-, hrest⟩ := List.forall_mem_cons.mp hn
  obtain ⟨hen, hdepths⟩ := List.forall_mem_cons.mp hrest
  rw [List.map_cons, List.map_cons, List.sum_cons, List.sum_cons] at hsum
  have hd : 0 < 2 ^ (n - d) := Nat.two_pow_pos _
  have hroom : 2 ^ (n - e) + (depths.map fun x => 2 ^ (n - x)).sum + 2 ^ (n - e) ≤ 2 ^ n :=
    add_le_of_lt_of_dvd (dvd_add dvd_rfl (dvd_kraft_sum hle)) (Nat.pow_dvd_pow 2 (Nat.sub_le n e)) (by omega)
  cases e with
  | zero =>
    have := Nat.two_pow_pos n
    rw [Nat.sub_zero] at hroom
    omega
  | succ k =>
    refine ⟨k, rfl, n, List.forall_mem_cons.mpr ⟨by omega, hdepths⟩, ?_⟩
    rw [List.map_cons, List.sum_cons, show n - k = n - (k + 1) + 1 by omega, Nat.pow_succ]
    omega

/-! ### The least weight at the greatest depth -/

/-- A list of depths with weights can be given another in which a least weight has a greatest depth: the two trade places. -/
theorem exists_least_deepest {l : List (Nat × Nat)} {m : Nat} {ws : List Nat} (hw : (l.map Prod.snd).Perm (m :: ws))
    (hmin : ∀ w ∈ ws, m ≤ w) : ∃ d k, (l.map Prod.fst).Perm (d :: k.map Prod.fst) ∧ (k.map Prod.snd).Perm ws ∧
      (∀ x ∈ k.map Prod.fst, x ≤ d) ∧ d * m + pathLength k ≤ pathLength l := by
  obtain ⟨p, hp, rfl⟩ := List.mem_map.mp (hw.mem_iff.mpr (List.mem_cons_self ..))
  obtain ⟨q, hq, hmax⟩ := l.toFinset.exists_max_image Prod.fst ⟨p, List.mem_toFinset.mpr hp⟩
  rw [List.mem_toFinset] at hq
  have hdeepest {x : Nat} (hx : x ∈ l.map Prod.fst) : x ≤ q.1 := by
    obtain ⟨r, hr, rfl⟩ := List.mem_map.mp hx
    exact hmax r (List.mem_toFinset.mpr hr)
  have hsplit := List.perm_cons_erase hp
  by_cases hpq : p.1 = q.1
  · refine ⟨p.1, l.erase p, hsplit.map _, ((hsplit.map Prod.snd).symm.trans hw).cons_inv, fun x hx => ?_, ?_⟩
    · exact hpq ▸ hdeepest ((hsplit.map _).mem_iff.mpr (List.mem_cons_of_mem _ hx))
    · rw [pathLength_perm hsplit, pathLength_cons]
  · have hne : q ≠ p := fun e => hpq (congrArg Prod.fst e.symm)
    have htwo : l.Perm (p :: q :: (l.erase p).erase q) :=
      hsplit.trans ((List.perm_cons_erase ((List.mem_erase_of_ne hne).mpr hq)).cons p)
    have hws : (q.2 :: ((l.erase p).erase q).map Prod.snd).Perm ws := ((htwo.map Prod.snd).symm.trans hw).cons_inv
    refine ⟨q.1, (p.1, q.2) :: (l.erase p).erase q, (htwo.map _).trans (.swap _ _ _), hws, fun x hx => ?_, ?_⟩
    · exact hdeepest ((htwo.map _).mem_iff.mpr ((List.Perm.swap ..).mem_iff.mp (List.mem_cons_of_mem q.1 hx)))
    · have htrade := mul_add_mul_le_mul_add_mul (hdeepest (List.mem_map_of_mem hp)) (hmin q.2 (hws.mem_iff.mp (List.mem_cons_self ..)))
      rw [pathLength_perm htwo, pathLength_cons, pathLength_cons, pathLength_cons]
      dsimp only
      omega

/-- The two least weights joined: the list is one shorter, still meets the Kraft inequality, and costs their sum less. -/
theorem exists_join {l : List (Nat × Nat)} {a b : Nat} {ws : List Nat} (hw : (l.map Prod.snd).Perm (a :: b :: ws)) (hab : a ≤ b)
    (hb : ∀ w ∈ ws, b ≤ w) (hk : Kraft (l.map Prod.fst)) : ∃ k, (k.map Prod.snd).Perm ((a + b) :: ws) ∧
      Kraft (k.map Prod.fst) ∧ pathLength k + (a + b) ≤ pathLength l := by
  obtain ⟨d, l1, hd, hw1, hmax, hcost⟩ := exists_least_deepest hw (List.forall_mem_cons.mpr ⟨hab, fun w hw => hab.trans (hb w hw)⟩)
  obtain ⟨e, l2, he, hw2, hmax2, hcost2⟩ := exists_least_deepest hw1 hb
  have hed : e ≤ d := hmax e (he.mem_iff.mpr (List.mem_cons_self ..))
  obtain ⟨k, rfl, hkraft⟩ := (hk.perm (hd.trans (he.cons d))).join hed hmax2
  refine ⟨(k, a + b) :: l2, hw2.cons _, hkraft, ?_⟩
  have hda : (k + 1) * a ≤ d * a := Nat.mul_le_mul_right a hed
  rw [pathLength_cons]
  dsimp only
  rw [Nat.succ_mul] at hda hcost2
  rw [Nat.mul_add]
  omega

/-! ### A tree as depths and weights -/

/-- The leaves' depths with their weights. -/
def Tree.profile (weight : Symbol → Nat) (T : Tree) : List (Nat × Nat) := T.codes.map fun c => (c.2.length, weight c.1)

theorem Tree.pathLength_profile (weight : Symbol → Nat) (T : Tree) : pathLength (T.profile weight) = T.cost weight := by
  simp [pathLength, Tree.profile, Tree.cost, Function.comp_def]

theorem Tree.profile_weights (weight : Symbol → Nat) (T : Tree) : (T.profile weight).map Prod.snd = T.symbols.map weight := by
  simp [Tree.profile, ← T.codes_symbols, Function.comp_def]

theorem Tree.profile_kraft (weight : Symbol → Nat) (T : Tree) : Kraft ((T.profile weight).map Prod.fst) := by
  refine ⟨T.height, fun d hd => ?_, ?_⟩
  · obtain ⟨_, hp, rfl⟩ := List.mem_map.mp hd
    obtain ⟨c, hc, rfl⟩ := List.mem_map.mp hp
    exact Tree.code_length_le hc
  · refine le_of_eq_of_le (congrArg List.sum ?_) (T.kraft (Nat.le_refl _)).le
    simp [Tree.profile, Tree.leafPaths, Function.comp_def]

/-! ### The trees of Q and what they cost -/

/-- The leaves' weights together. -/
def Tree.weight (weight : Symbol → Nat) (T : Tree) : Nat := (T.symbols.map weight).sum

theorem Tree.weight_node (weight : Symbol → Nat) (l r : Tree) :
    (Tree.node l r).weight weight = l.weight weight + r.weight weight := by
  simp [Tree.weight, Tree.symbols]

/-- A node costs its sub-trees and, one level deeper, their weights. -/
theorem Tree.cost_node (weight : Symbol → Nat) (l r : Tree) :
    (Tree.node l r).cost weight = l.cost weight + r.cost weight + (l.weight weight + r.weight weight) := by
  have hdeeper (t : Tree) : t.costFrom 1 weight = t.cost weight + t.weight weight := by
    simp [Tree.costFrom, Tree.cost, Tree.weight, ← t.codes_symbols, Nat.add_mul, List.sum_map_add, Function.comp_def, Nat.add_comm]
  rw [← Tree.costFrom_zero, Tree.costFrom_node, hdeeper, hdeeper]
  omega

variable {weight : Symbol → Nat} {nodes : List Node}

/-- The frequency of an entry is the weight of the tree it holds (40_tree_builder.md R130). -/
theorem Holds.freq_eq {i : Index} {T : Tree} (h : Holds nodes i T) (hs : Summed nodes) (hw : Weighted weight nodes) {n : Node}
    (hn : nodes[i.toNat]? = some n) : n.freq = T.weight weight := by
  induction h generalizing n with
  | leaf hn' hk =>
    cases hn.symm.trans hn'
    simp [hw _ _ _ hn hk, Tree.weight, Tree.symbols]
  | node hn' hk _ _ iha ihb =>
    cases hn.symm.trans hn'
    obtain ⟨l, r, nl, nr, hkind, -, -, hnl, hnr, hsum⟩ := hs _ _ hn (isLeaf_eq_false_of_kind hk)
    cases hk.symm.trans hkind
    rw [hsum, iha hnl, ihb hnr, Tree.weight_node]

/-- Each index of `q` holds a tree, and together they cost `c`. -/
def Priced (weight : Symbol → Nat) (nodes : List Node) (q : List Index) (c : Nat) : Prop :=
  ∃ f : Index → Tree, (∀ i ∈ q, Holds nodes i (f i)) ∧ (q.map fun i => (f i).cost weight).sum = c

theorem Priced.singleton {i : Index} {c : Nat} (h : Priced weight nodes [i] c) : ∃ T, Holds nodes i T ∧ T.cost weight = c := by
  obtain ⟨f, hf, hc⟩ := h
  exact ⟨f i, hf i (List.mem_singleton_self i), by simpa using hc⟩

/-- An index taken out of Q takes its tree's cost with it. -/
theorem Priced.erase {q : List Index} {i : Index} {c : Nat} (h : Priced weight nodes q c) (hi : i ∈ q) :
    ∃ T k, Holds nodes i T ∧ Priced weight nodes (q.erase i) k ∧ T.cost weight + k = c := by
  obtain ⟨f, hf, hc⟩ := h
  exact ⟨f i, _, hf i hi, ⟨f, fun j hj => hf j (List.mem_of_mem_erase hj), rfl⟩,
    (List.sum_map_erase (fun i => (f i).cost weight) hi).trans hc⟩

/-- A new entry that holds a tree joins Q. -/
theorem Priced.add {q : List Index} {n : Node} {T : Tree} {c : Nat} (h : Priced weight nodes q c) (hlt : nodes.length < 1024)
    (hT : Holds (nodes ++ [n]) (BitVec.ofNat 10 nodes.length) T) :
    Priced weight (nodes ++ [n]) (q ++ [BitVec.ofNat 10 nodes.length]) (c + T.cost weight) := by
  obtain ⟨f, hf, hc⟩ := h
  have hne : ∀ i ∈ q, i ≠ BitVec.ofNat 10 nodes.length := by
    rintro i hi rfl
    have := (hf _ hi).lt_length
    rw [BitVec.toNat_ofNat] at this
    omega
  have hold : ∀ i ∈ q, Function.update f (BitVec.ofNat 10 nodes.length) T i = f i :=
    fun i hi => Function.update_of_ne (hne i hi) _ _
  refine ⟨Function.update f (BitVec.ofNat 10 nodes.length) T, fun i hi => ?_, ?_⟩
  · obtain hi | hi := List.mem_append.mp hi
    · rw [hold i hi]
      exact (hf i hi).append _
    · rw [List.mem_singleton.mp hi, Function.update_self]
      exact hT
  · rw [List.map_append, List.sum_append, List.map_singleton, List.sum_singleton, Function.update_self, ← hc]
    exact congrArg (· + _) (congrArg List.sum (List.map_congr_left fun i hi => congrArg (Tree.cost weight) (hold i hi)))

variable {table s t : State}

/-- A merge pays the weights of the two trees it joins (40_tree_builder.md R126). -/
theorem Priced.merged {a b : Index} {c : Nat} (h : Priced weight s.nodes s.q c) (hs : Growing table s)
    (hw : Weighted weight s.nodes) (ha : a ∈ s.q) (hb : b ∈ s.q.erase a) :
    Priced weight (s.merged a b).nodes (s.merged a b).q (c + (s.freqAt a + s.freqAt b)) := by
  obtain ⟨x, k, hx, hk, hxk⟩ := h.erase ha
  obtain ⟨y, m, hy, hm, hym⟩ := hk.erase hb
  have hlt : s.nodeN < 1024 := by
    have := hs.room
    omega
  have hfreq {i : Index} {T : Tree} (hT : Holds s.nodes i T) : s.freqAt i = T.weight weight := by
    obtain ⟨n, hn⟩ := State.node?_of_lt hT.lt_length
    rw [State.freqAt_eq hn, hT.freq_eq hs.sums hw hn]
  have hnew : Holds (s.merged a b).nodes s.nextIndex (.node x y) :=
    .node (s.alloc_node?_next _ hlt) rfl (hx.append _) (hy.append _)
  have hcost : m + (Tree.node x y).cost weight = c + (s.freqAt a + s.freqAt b) := by
    rw [Tree.cost_node, hfreq hx, hfreq hy]
    omega
  exact hcost ▸ hm.add hlt hnew

theorem Weighted.append {n : Node} (hw : Weighted weight nodes) (hn : n.isLeaf = false) : Weighted weight (nodes ++ [n]) := by
  intro k m symbol hm hk
  obtain hlt | hge := Nat.lt_or_ge k nodes.length
  · exact hw k m symbol (by rwa [List.getElem?_append_left hlt] at hm) hk
  · have hmem : m ∈ [n] := List.mem_of_getElem? (by rwa [List.getElem?_append_right hge] at hm)
    rw [← List.mem_singleton.mp hmem, Node.isLeaf, hk] at hn
    cases hn

/-- The weights of Q after a merge. -/
theorem Growing.merged_freqs {a b : Index} (hs : Growing table s) :
    (s.merged a b).q.map (s.merged a b).freqAt =
      ((s.q.erase a).erase b).map s.freqAt ++ [s.freqAt a + s.freqAt b] := by
  have hlt : s.nodeN < 1024 := by
    have := hs.room
    omega
  have hkept : ((s.q.erase a).erase b).map (s.merged a b).freqAt = ((s.q.erase a).erase b).map s.freqAt :=
    List.map_congr_left fun j hj => State.merged_freqAt_old a b (hs.valid j (List.mem_of_mem_erase (List.mem_of_mem_erase hj)))
  rw [State.merged_q, List.map_append, hkept, List.map_singleton, State.merged_freqAt_next a b hlt]

theorem State.keyLe.freqAt_le {i j : Index} (h : s.keyLe i j) : s.freqAt i ≤ s.freqAt j := h.elim Nat.le_of_lt fun h => h.1.le

/-- The merges cost no more than any list of depths for the weights in Q that meets the Kraft inequality
(40_tree_builder.md R131). -/
theorem tbMergeAll_cost_le {fuel c : Nat} {l : List (Nat × Nat)} (hs : Growing table s) (hw : Weighted weight s.nodes)
    (hc : Priced weight s.nodes s.q c) (hl : (l.map Prod.snd).Perm (s.q.map s.freqAt)) (hk : Kraft (l.map Prod.fst))
    (h : tbMergeAll fuel s = .go () t) : ∃ c', Priced weight t.nodes t.q c' ∧ c' ≤ c + pathLength l := by
  induction fuel generalizing s c l with
  | zero => cases h; exact ⟨c, hc, Nat.le_add_right _ _⟩
  | succ fuel ih =>
    by_cases h2 : 1 < s.q.length
    · obtain ⟨a, b, ha, hb, hleasta, hleastb, hmerge⟩ := tbMerge_least h2 hs.valid
      obtain ⟨u, hu, hgrow, -⟩ := tbMerge_growing hs h2
      cases hu.symm.trans hmerge
      rw [tbMergeAll_succ fuel h2, hmerge, Run.bind_go] at h
      have hsplit : (s.q.map s.freqAt).Perm (s.freqAt a :: s.freqAt b :: ((s.q.erase a).erase b).map s.freqAt) :=
        ((List.perm_cons_erase ha).trans ((List.perm_cons_erase hb).cons a)).map s.freqAt
      obtain ⟨k, hk1, hk2, hk3⟩ := exists_join (hl.trans hsplit) (hleasta b (List.mem_of_mem_erase hb)).freqAt_le
        (List.forall_mem_map.mpr fun j hj => (hleastb j (List.mem_of_mem_erase hj)).freqAt_le) hk
      have hfreqs : (k.map Prod.snd).Perm ((s.merged a b).q.map (s.merged a b).freqAt) := by
        rw [hs.merged_freqs]
        exact hk1.trans (List.perm_append_singleton _ _).symm
      obtain ⟨c', hc', hle⟩ := ih hgrow (hw.append rfl) (hc.merged hs hw ha hb) hfreqs hk2 h
      exact ⟨c', hc', by omega⟩
    · rw [tbMergeAll, if_neg h2] at h
      cases h
      exact ⟨c, hc, Nat.le_add_right _ _⟩

/-! ### The tree of ENC_BUILD -/

/-- The leaves TB.INIT makes cost nothing yet. -/
theorem tbInit_priced (hs : s.nodes = []) : Priced weight (tbInit s).nodes (tbInit s).q 0 := by
  obtain ⟨⟨f, hf, -⟩, -⟩ := tbInit_forest hs
  refine ⟨f, hf, List.sum_eq_zero fun x hx => ?_⟩
  obtain ⟨i, hi, rfl⟩ := List.mem_map.mp hx
  have hleaf := hf i hi
  generalize f i = T at hleaf
  cases hleaf with
  | leaf => simp [Tree.cost, Tree.codes]
  | node hn hk =>
    rw [tbInit_nodes hs] at hn
    obtain ⟨c, -, rfl⟩ := List.mem_map.mp (List.mem_of_getElem? hn)
    cases hk

theorem Tallied.weighted_tbInit {u : State} (h : Tallied s u) (hu : u.nodes = []) :
    Weighted (Machine.occurrences s.input) (tbInit u).nodes := by
  intro k n symbol hn hk
  rw [tbInit_nodes hu] at hn
  obtain ⟨c, -, rfl⟩ := List.mem_map.mp (List.mem_of_getElem? hn)
  cases hk
  exact h.occurrences c

/-- The weights of the symbols that occur are their frequencies. -/
theorem Tallied.usedAmong_weights {u : State} (h : Tallied s u) (l : List (Fin 257)) :
    (u.usedAmong l).map (Machine.occurrences s.input) = (u.present l).map u.freqOf := by
  rw [State.usedAmong, List.map_map]
  exact List.map_congr_left fun c _ => (h.occurrences c).symm

/-- The tree of ENC_BUILD costs no more than any other over the same leaves (40_tree_builder.md R131). -/
theorem Stages.cost_le {u v w : State} (h : Stages s u v w t) {T T' : Tree} (hT : Coded t.nodes t.root T 0 0)
    (hperm : T'.symbols.Perm T.symbols) : T.cost (occurrences s.input) ≤ T'.cost (occurrences s.input) := by
  have hweights : ((T'.profile (occurrences s.input)).map Prod.snd).Perm ((tbInit u).q.map (tbInit u).freqAt) := by
    rw [Tree.profile_weights, tbInit_q_freqs h.empty, ← h.tallied.usedAmong_weights]
    exact (hperm.trans (h.symbols_perm hT)).map _
  obtain ⟨m, r, hm, -, hr⟩ := tbMergeAll_growing (tbInit_growing h.empty) (Nat.le_refl _)
  obtain ⟨c, hc, hle⟩ := tbMergeAll_cost_le (tbInit_growing h.empty) (h.tallied.weighted_tbInit h.empty)
    (tbInit_priced h.empty) hweights (Tree.profile_kraft _ _) hm
  rw [hr] at hc
  obtain ⟨T0, hT0, hcost⟩ := hc.singleton
  cases h.build.symm.trans (tbBuild_of_merges hm hr)
  have hassign : caVisit (codeMax + 1) r 0 0 { m with root := r, hdrBytes := 0#10, payloadBits := 0 } = .go () w := h.assign
  have hend : Holds t.nodes t.root T0 := by
    rw [h.nodes, h.root_build]
    exact Holds.of_caVisit (s := { m with root := r, hdrBytes := 0#10, payloadBits := 0 }) hT0 hassign
  obtain rfl := hend.unique hT.holds
  rw [Tree.pathLength_profile] at hle
  omega

/-- Settles O35: PAYLOAD_BITS counts the tree's cost, and each merge pays the least that any tree has to. -/
theorem builtTreeIsOptimal : Obligations.BuiltTreeIsOptimal := by
  intro s t T hs hp hne hmax h hT
  obtain ⟨u, v, w, hst⟩ := encBuild_stages_of_next hs hp hne hmax h
  obtain ⟨T0, hcoded, -⟩ := hst.coded
  obtain rfl := hcoded.holds.unique (holds_of_readTree hT)
  exact ⟨hst.payloadBits hcoded.holds, fun T' hperm => hst.cost_le hcoded hperm⟩

end Sys2Proof.Machine
end

section
/-! SUPPORT. What the return of a finished sub-tree does to the waiting activations (42_tree_codec.md R153): each that waited for its
right child hands its own node on, and every child written goes to an entry an activation names. -/

namespace Sys2Proof.Machine

/-! ### Arenas that differ in children only -/

/-- What the children written to the entries of `fs` leave of an arena. -/
def Rewired (fs : List Frame) (nodes nodes' : List Node) : Prop :=
  nodes'.length = nodes.length ∧
  ∀ (k : Nat) (n : Node), nodes[k]? = some n → ∃ m, nodes'[k]? = some m ∧ m.freq = n.freq ∧ m.codeLen = n.codeLen ∧
    m.codeVal = n.codeVal ∧ m.isLeaf = n.isLeaf ∧ ((∀ f ∈ fs, f.node.toNat ≠ k) → m = n)

theorem Rewired.refl (fs : List Frame) (nodes : List Node) : Rewired fs nodes nodes :=
  ⟨rfl, fun _ n hn => ⟨n, hn, rfl, rfl, rfl, rfl, fun _ => rfl⟩⟩

theorem Rewired.trans {fs : List Frame} {a b c : List Node} (h : Rewired fs a b) (g : Rewired fs b c) : Rewired fs a c := by
  refine ⟨g.1.trans h.1, fun k n hn => ?_⟩
  obtain ⟨m, hm, hfreq, hlen, hval, hleaf, hkept⟩ := h.2 k n hn
  obtain ⟨m', hm', hfreq', hlen', hval', hleaf', hkept'⟩ := g.2 k m hm
  exact ⟨m', hm', hfreq'.trans hfreq, hlen'.trans hlen, hval'.trans hval, hleaf'.trans hleaf,
    fun hf => (hkept' hf).trans (hkept hf)⟩

variable {nodes : List Node} {f : Frame} {n : Node} {l r : Option Index}

theorem putChild_internal (hn : nodes[f.node.toNat]? = some n) (hk : n.kind = .internal l r) (child : Index) :
    putChild nodes f child = nodes.set f.node.toNat
      { n with kind := if f.side = .left then .internal (some child) r else .internal l (some child) } := by
  simp only [putChild, hn, hk]

theorem rewired_putChild {fs : List Frame} (nodes : List Node) (hf : f ∈ fs) (child : Index) :
    Rewired fs nodes (putChild nodes f child) := by
  unfold putChild
  split
  · exact .refl fs nodes
  next n hn =>
    split
    · exact .refl fs nodes
    next l r hk =>
      refine ⟨List.length_set, fun k m hm => ?_⟩
      by_cases hkf : f.node.toNat = k
      · subst hkf
        cases hn.symm.trans hm
        refine ⟨_, List.getElem?_set_self (List.getElem?_eq_some_iff.mp hn).1, rfl, rfl, rfl, ?_, fun h => absurd rfl (h f hf)⟩
        split <;> simp [Node.isLeaf, hk]
      · exact ⟨m, (List.getElem?_set_ne hkf).trans hm, rfl, rfl, rfl, rfl, fun _ => rfl⟩

/-- Children written one after the other. -/
def putChildren (nodes : List Node) (l : List (Frame × Index)) : List Node := l.foldl (fun ns p => putChild ns p.1 p.2) nodes

theorem rewired_putChildren {fs : List Frame} {l : List (Frame × Index)} (nodes : List Node) (h : ∀ p ∈ l, p.1 ∈ fs) :
    Rewired fs nodes (putChildren nodes l) := by
  induction l generalizing nodes with
  | nil => exact .refl fs nodes
  | cons p l ih =>
    obtain ⟨hp, hl⟩ := List.forall_mem_cons.mp h
    exact (rewired_putChild nodes hp p.2).trans (ih (putChild nodes p.1 p.2) hl)

/-- Every activation names an Internal entry. -/
def NamesInternal (nodes : List Node) (fs : List Frame) : Prop :=
  ∀ f ∈ fs, ∃ n l r, nodes[f.node.toNat]? = some n ∧ n.kind = .internal l r

theorem NamesInternal.rewired {fs gs : List Frame} {nodes' : List Node} (h : NamesInternal nodes fs)
    (g : Rewired gs nodes nodes') : NamesInternal nodes' fs := by
  intro f hf
  obtain ⟨n, l, r, hn, hk⟩ := h f hf
  obtain ⟨m, hm, -, -, -, hleaf, -⟩ := g.2 _ n hn
  rw [isLeaf_eq_false_of_kind hk] at hleaf
  cases hkind : m.kind with
  | leaf symbol => simp [Node.isLeaf, hkind] at hleaf
  | internal l' r' => exact ⟨m, l', r', hm, hkind⟩

theorem NamesInternal.append {fs : List Frame} (h : NamesInternal nodes fs) (more : List Node) :
    NamesInternal (nodes ++ more) fs := fun f hf => by
  obtain ⟨n, l, r, hn, hk⟩ := h f hf
  exact ⟨n, l, r, (List.getElem?_append_left (List.getElem?_eq_some_iff.mp hn).1).trans hn, hk⟩

theorem NamesInternal.ne_length {fs : List Frame} (h : NamesInternal nodes fs) : ∀ f ∈ fs, f.node.toNat ≠ nodes.length := by
  intro f hf
  obtain ⟨n, l, r, hn, -⟩ := h f hf
  exact (List.getElem?_eq_some_iff.mp hn).1.ne

/-! ### The return -/

/-- One activation given its child: the case of the write in `tcReturn`. -/
theorem State.setNode_withChild {s : State} (hn : s.node? f.node = some n) (hk : n.kind = .internal l r) (child : Index) :
    s.setNode f.node (n.withChild f.side child) = { s with nodes := putChild s.nodes f child } := by
  rw [putChild_internal hn hk, State.setNode]
  cases hside : f.side with
  | left => simp [Node.withChild, hk]
  | right => simp [Node.withChild, hk]

/-- What is left of the activations, split where the first waits for its left child. -/
def resumed (waiting : List Frame) : List Frame :=
  (waiting.take 1).map (fun f => { f with side := .right }) ++ waiting.drop 1

theorem exists_resume_split (fs : List Frame) : ∃ finished waiting, fs = finished ++ waiting ∧
    (∀ f ∈ finished, f.side = .right) ∧ (∀ f ∈ waiting.head?, f.side = .left) ∧ resume fs = resumed waiting := by
  induction fs with
  | nil => exact ⟨[], [], rfl, nofun, nofun, rfl⟩
  | cons f fs ih =>
    obtain ⟨i, len, val, side⟩ := f
    cases side with
    | left => exact ⟨[], _, rfl, nofun, fun _ hg => by cases hg; rfl, rfl⟩
    | right =>
      obtain ⟨finished, waiting, rfl, hright, hleft, hresume⟩ := ih
      exact ⟨⟨i, len, val, .right⟩ :: finished, waiting, rfl, List.forall_mem_cons.mpr ⟨rfl, hright⟩, hleft, hresume⟩

theorem mem_resume {fs : List Frame} (h : f ∈ resume fs) : ∃ g ∈ fs, g.node = f.node := by
  induction fs with
  | nil => cases h
  | cons g fs ih =>
    obtain ⟨i, len, val, side⟩ := g
    cases side with
    | left =>
      obtain rfl | hf := List.mem_cons.mp h
      · exact ⟨_, List.mem_cons_self .., rfl⟩
      · exact ⟨f, List.mem_cons_of_mem _ hf, rfl⟩
    | right =>
      obtain ⟨g, hg, e⟩ := ih h
      exact ⟨g, List.mem_cons_of_mem _ hg, e⟩

/-- The state after the index `j` was returned to the activations: `finished` wait for their right child, the first of `waiting`
for its left. -/
def State.returned (finished waiting : List Frame) (j : Index) (s : State) : State :=
  { s with
    nodes := putChildren s.nodes ((finished ++ waiting.take 1).zip (j :: finished.map (·.node)))
    root := if waiting = [] then (j :: finished.map (·.node)).getLastD j else s.root
    pend := resumed waiting }

theorem tcReturn_eq {finished waiting : List Frame} {j : Index} {s : State} (hok : NamesInternal s.nodes (finished ++ waiting))
    (hright : ∀ f ∈ finished, f.side = .right) (hleft : ∀ f ∈ waiting.head?, f.side = .left) :
    tcReturn (finished ++ waiting) j s = .go () (s.returned finished waiting j) := by
  induction finished generalizing j s with
  | nil =>
    cases waiting with
    | nil => rfl
    | cons f fs =>
      obtain ⟨n, l, r, hn, hk⟩ := hok f (List.mem_cons_self ..)
      have hset := State.setNode_withChild hn hk j
      obtain ⟨i, len, val, side⟩ := f
      obtain rfl : side = .left := hleft _ rfl
      exact (tcReturn_left hn).trans (by rw [hset]; rfl)
  | cons f finished ih =>
    obtain ⟨n, l, r, hn, hk⟩ := hok f (List.mem_cons_self ..)
    have hset := State.setNode_withChild hn hk j
    obtain ⟨hf, hfinished⟩ := List.forall_mem_cons.mp hright
    have hrest : NamesInternal (putChild s.nodes f j) (finished ++ waiting) := fun g hg =>
      hok.rewired (rewired_putChild s.nodes (List.mem_cons_self (l := [])) j) g (List.mem_cons_of_mem f hg)
    obtain ⟨i, len, val, side⟩ := f
    obtain rfl : side = .right := hf
    have hreturn := ih (j := i) (s := { s with nodes := putChild s.nodes ⟨i, len, val, .right⟩ j }) hrest hfinished
    exact (tcReturn_right hn).trans (hset ▸ hreturn)

/-! ### Leaf tokens -/

/-- The arena with the leaf of a token, at the place parsed next, and SENT_COUNT after it. -/
def State.withLeaf (symbol : Symbol) (sent : BitVec 9) (s : State) : State :=
  { s with nodes := s.nodes ++ [newImported (.leaf symbol) s], sentCount := sent }

/-- A token C, or Z with the sentinel's symbol. -/
def IsLeafToken (i : Instr) (symbol : Symbol) : Prop := i = .tokC symbol ∨ i = .tokZ ∧ symbol = 256#9

/-- SENT_COUNT after a token. -/
def State.sentAfter (i : Instr) (s : State) : BitVec 9 := if i = .tokZ then s.sentCount + 1#9 else s.sentCount

theorem IsLeafToken.isToken {i : Instr} {symbol : Symbol} (h : IsLeafToken i symbol) : i.isToken = true := by
  obtain rfl | ⟨rfl, -⟩ := h <;> rfl

variable {i : Instr} {symbol : Symbol} {s t : State}

/-- With room, a leaf token allocates its leaf and returns its index. -/
theorem IsLeafToken.runToken_eq (h : IsLeafToken i symbol) (hroom : s.nodeN < nodeCap) :
    runToken i s = tcReturn s.pend s.nextIndex (s.withLeaf symbol (s.sentAfter i)) := by
  obtain rfl | ⟨rfl, rfl⟩ := h
  · rw [State.sentAfter, if_neg nofun]
    exact if_neg hroom.ne
  · exact (if_neg hroom.ne).trans (if_neg hroom.ne)

variable (hi : IsLeafToken i symbol) (hp : s.status.phase = .parsingTree) (hroom : s.nodeN < nodeCap) (hok : FramesOk s)
include hi hp hroom hok

theorem exec_leafToken {finished waiting : List Frame} (hpend : s.pend = finished ++ waiting)
    (hright : ∀ f ∈ finished, f.side = .right) (hleft : ∀ f ∈ waiting.head?, f.side = .left) :
    exec i s = .next ((s.withLeaf symbol (s.sentAfter i)).returned finished waiting s.nextIndex) := by
  have hnames : NamesInternal s.nodes (finished ++ waiting) := hpend ▸ hok
  rw [exec_token_eq_runToken i s hi.isToken hp, hi.runToken_eq hroom, hpend, tcReturn_eq (hnames.append _) hright hleft]
  rfl

/-- The outcome whatever activations wait: only children of the entries they name are written. -/
theorem exec_leafToken_next : ∃ t, exec i s = .next t ∧
    Rewired s.pend (s.nodes ++ [newImported (.leaf symbol) s]) t.nodes ∧
    t = { s with nodes := t.nodes, root := t.root, pend := resume s.pend, sentCount := s.sentAfter i } := by
  obtain ⟨finished, waiting, hpend, hright, hleft, hresume⟩ := exists_resume_split s.pend
  refine ⟨_, exec_leafToken hi hp hroom hok hpend hright hleft, rewired_putChildren _ fun p hmem => ?_, by rw [hresume]; rfl⟩
  obtain hf | hw := List.mem_append.mp (List.of_mem_zip (a := p.1) (b := p.2) hmem).1
  · exact hpend ▸ List.mem_append_left _ hf
  · exact hpend ▸ List.mem_append_right _ (List.mem_of_mem_take hw)

omit hi hp hroom hok

/-! ### The cases written out -/

theorem putChild_append {child : Index} (hn : nodes[f.node.toNat]? = some n) (hk : n.kind = .internal l r) (more : List Node) :
    putChild (nodes ++ more) f child = putChild nodes f child ++ more := by
  have hlt := (List.getElem?_eq_some_iff.mp hn).1
  rw [putChild_internal hn hk, putChild_internal ((List.getElem?_append_left hlt).trans hn) hk, List.set_append_left _ _ hlt]

theorem putChild_left {j child : Index} {len val : Nat} (hn : nodes[j.toNat]? = some n) (hk : n.kind = .internal l r) :
    putChild nodes ⟨j, len, val, .left⟩ child = nodes.set j.toNat { n with kind := .internal (some child) r } :=
  putChild_internal hn hk child

theorem putChild_right {j child : Index} {len val : Nat} (hn : nodes[j.toNat]? = some n) (hk : n.kind = .internal l r) :
    putChild nodes ⟨j, len, val, .right⟩ child = nodes.set j.toNat { n with kind := .internal l (some child) } :=
  putChild_internal hn hk child

/-- A leaf token, where it is known what the children written make of the arena. -/
theorem exec_leafToken_arena {finished waiting : List Frame} {arena : List Node} (hi : IsLeafToken i symbol)
    (hp : s.status.phase = .parsingTree) (hroom : s.nodeN < nodeCap) (hok : FramesOk s) (hpend : s.pend = finished ++ waiting)
    (hright : ∀ f ∈ finished, f.side = .right) (hleft : ∀ f ∈ waiting.head?, f.side = .left)
    (harena : putChildren (s.nodes ++ [newImported (.leaf symbol) s])
      ((finished ++ waiting.take 1).zip (s.nextIndex :: finished.map (·.node))) = arena) :
    exec i s = .next { s with
      nodes := arena
      root := if waiting = [] then (s.nextIndex :: finished.map (·.node)).getLastD s.nextIndex else s.root
      pend := resumed waiting
      sentCount := s.sentAfter i } := by
  subst harena
  exact exec_leafToken hi hp hroom hok hpend hright hleft

/-- Every token keeps what the return of a leaf relies on. -/
theorem exec_token_framesOk (hi : i.isToken = true) (hp : s.status.phase = .parsingTree) (hn : s.nodeN ≤ nodeCap)
    (hok : FramesOk s) (h : exec i s = .next t) : FramesOk t ∧ t.nodeN ≤ nodeCap := by
  obtain hfull | hroom := hn.eq_or_lt
  · cases (tokenAtFullArenaIsRejected i s hi hp hfull).symm.trans h
    exact ⟨nofun, hn⟩
  have leaf {symbol : Symbol} (hleaf : IsLeafToken i symbol) : FramesOk t ∧ t.nodeN ≤ nodeCap := by
    obtain ⟨u, hu, hrewired, hframe⟩ := exec_leafToken_next hleaf hp hroom hok
    cases hu.symm.trans h
    have hnames : NamesInternal t.nodes s.pend := (NamesInternal.append hok _).rewired hrewired
    refine ⟨fun f hf => ?_, hrewired.1.trans_le (by rw [List.length_append]; exact hroom)⟩
    rw [hframe] at hf
    obtain ⟨g, hg, e⟩ := mem_resume hf
    exact e ▸ hnames g hg
  cases i with
  | tokC symbol => exact leaf (.inl rfl)
  | tokZ => exact leaf (.inr ⟨rfl, rfl⟩)
  | tokN =>
    cases (tokenNOpensANode s hp hroom.ne).1.symm.trans h
    refine ⟨List.forall_mem_cons.mpr ⟨⟨_, none, none, node?_alloc_imported (.internal none none) hroom, rfl⟩, ?_⟩, ?_⟩
    · exact NamesInternal.append hok _
    · exact (s.alloc_nodeN _).trans_le hroom
  | _ => cases hi

/-- Settles O52: one return to the waiting activations, and its cases. -/
theorem leafTokensCloseABranch : Obligations.LeafTokensCloseABranch := by
  refine ⟨fun i symbol s hi hp hroom hok => ⟨?_, ?_, ?_, ?_, ?_, ?_⟩, fun i s t hi hp hn hok => exec_token_framesOk hi hp hn hok⟩
  · obtain ⟨t, ht, hrewired, hframe⟩ := exec_leafToken_next hi hp hroom hok
    refine ⟨t, ht, hrewired.1.trans List.length_append, ?_, fun k n hn => ?_, hframe⟩
    · obtain ⟨m, hm, -, -, -, -, hkept⟩ := hrewired.2 s.nodes.length _ List.getElem?_concat_length
      exact hm.trans (congrArg some (hkept (NamesInternal.ne_length hok)))
    · exact hrewired.2 k n ((List.getElem?_append_left (List.getElem?_eq_some_iff.mp hn).1).trans hn)
  · intro finished waiting hpend hright hleft
    exact exec_leafToken hi hp hroom hok hpend hright hleft
  · intro hpend
    have h := exec_leafToken_arena (finished := []) (waiting := []) hi hp hroom hok hpend nofun nofun rfl
    rwa [show resumed [] = s.pend from hpend.symm] at h
  · intro j len val fs n l r hpend hn hk
    exact exec_leafToken_arena (finished := []) hi hp hroom hok hpend nofun (fun _ hf => by cases hf; rfl)
      ((putChild_append hn hk _).trans (congrArg (· ++ _) (putChild_left hn hk)))
  · intro j len val n l r hpend hn hk
    exact exec_leafToken_arena (finished := [_]) (waiting := []) hi hp hroom hok hpend (List.forall_mem_singleton.mpr rfl) nofun
      ((putChild_append hn hk _).trans (congrArg (· ++ _) (putChild_right hn hk)))
  · intro j k len val len' val' fs n m l r l' r' hjk hpend hn hk hm hk'
    have hm' : (putChild s.nodes ⟨j, len, val, .right⟩ s.nextIndex)[k.toNat]? = some m := by
      rw [putChild_right hn hk, List.getElem?_set_ne fun e => hjk (BitVec.eq_of_toNat_eq e)]
      exact hm
    refine exec_leafToken_arena (finished := [_]) hi hp hroom hok hpend (List.forall_mem_singleton.mpr rfl)
      (fun _ hf => by cases hf; rfl) ?_
    calc putChild (putChild (s.nodes ++ [newImported (.leaf symbol) s]) ⟨j, len, val, .right⟩ s.nextIndex)
          ⟨k, len', val', .left⟩ j
        = putChild (putChild s.nodes ⟨j, len, val, .right⟩ s.nextIndex) ⟨k, len', val', .left⟩ j ++
            [newImported (.leaf symbol) s] := by rw [putChild_append hn hk, putChild_append hm' hk']
      _ = _ := by rw [putChild_left hm' hk', putChild_right hn hk]; rfl

end Sys2Proof.Machine
end
